-- ==== Sys2Proof/Word.lean ====
section
/-!
DEFINITION. The value types of the block (spec/00_scope.md R9): bytes, command words, and the widths of operands and
registers. Everything is unsigned. The names of the three buffers (spec/10_state.md R33) stand here too.
-/

namespace Sys2Proof

/-- A byte, 0 to 255 (R9). -/
abbrev Byte := BitVec 8

/-- A 32-bit command word, and the width of `DOUT` (R71, R23). -/
abbrev Word := BitVec 32

/-- The 17-bit operand field `A` and the width of `FLEN` (R71, R29). -/
abbrev Word17 := BitVec 17

/-- The 16-bit operands and the width of `DLEN` (R72, R27). -/
abbrev Word16 := BitVec 16

/-- The three byte-addressed buffers, each its own address space (R33). -/
inductive Space where
  | data
  | opt
  | fb
  deriving DecidableEq, Repr

end Sys2Proof
end

