-- ==== Sys2Proof/Machine/Bytes.lean ====
section
/-!
DEFINITION. The byte-sequence and field helpers of spec/00_scope.md R9 and R10.
-/

namespace Sys2Proof.Machine

/-- `be16(v)` (R10): most significant byte first. -/
def be16 (v : Word16) : List Byte :=
  [v.extractLsb' 8 8, v.extractLsb' 0 8]

/-- `unbe16(h, l)` (R10, R63): `256 h + l`, a natural number, so that no sum with it wraps (R94). -/
def unbe16 (h l : Byte) : Nat :=
  256 * h.toNat + l.toNat

/-- `b[i]` (R10). The default is never consulted by `decode`: every index is checked against the length first (R133). -/
def byteAt (b : List Byte) (i : Nat) : Byte :=
  b.getD i 0

/-- `b[i ..< j]` (R10). -/
def slice (b : List Byte) (i j : Nat) : List Byte :=
  (b.drop i).take (j - i)

/-- `zext_32(v)` (R9). -/
def zext32 {n : Nat} (v : BitVec n) : Word :=
  v.setWidth 32

end Sys2Proof.Machine
end

