-- ==== Sys2Proof/Config.lean ====
section
/-!
DEFINITION. What is fixed for the machine and is not state (spec/10_state.md R20, spec/70_reset_and_hazards.md R212):
the two open parameters of the checksum, and the free value of a buffer byte that nothing has written.
The default values of the parameters stand in Sys2Proof/Machine/Params.lean.
-/

namespace Sys2Proof

/-- The open parameters of the block (spec/00_scope.md R8): the 256-entry table and the start value of `crc8`. Every
operation that depends on them takes them as an argument. -/
structure Config where
  /-- `CRC_TABLE`, 256 bytes indexed by a byte. -/
  crcTable : Byte → Byte
  /-- `CRC_INIT`, the value `crc8` starts from. -/
  crcInit : Byte

/-- FREE VALUE (log 4): what a read of a never-written byte of buffer `S` at address `a` gives when `k` commands before
it read such bytes. It has no body, so nothing can be proved about its value (spec/93_implementation_defined.md U1). -/
opaque Config.unwrittenByte (k : Nat) (S : Space) (a : Nat) : Byte

end Sys2Proof
end

