-- ==== Sys2Proof/Machine/Crc8.lean ====
section
/-!
DEFINITION. The function `crc8` of spec/40_crc8.md R90 and R91, for every table and start value (spec/00_scope.md R8).
-/

namespace Sys2Proof.Machine

/-- `crc_step(c, b) = CRC_TABLE[c xor b]` (R91). -/
def crcStep (c : Config) (acc b : Byte) : Byte :=
  c.crcTable (acc ^^^ b)

/-- The fold of `crc_step` over a sequence, from index 0 on, started from `acc` (R90). -/
def crcFold (c : Config) (acc : Byte) : List Byte → Byte
  | [] => acc
  | b :: bs => crcFold c (crcStep c acc b) bs

/-- `crc8(bs)` (R90). -/
def crc8 (c : Config) (bs : List Byte) : Byte :=
  crcFold c c.crcInit bs

end Sys2Proof.Machine
end

