-- ==== Sys2Proof/Machine/Codec.lean ====
section
/-!
DEFINITION. The pure functions `encode` (spec/41_encode.md R110) and `decode` (spec/42_decode.md R125) of Layer F, on
Packets and byte sequences, for every table and start value.
-/

namespace Sys2Proof.Machine

/-- A Packet (spec/00_scope.md R11). The bounds of R11 are `Packet.Bounded` and no part of the type, so that the type also
holds over-long triples, which are no Packets of the spec (log 18). The block never holds one (`State.packet`). -/
structure Packet where
  ptype : Byte
  data : List Byte
  opt : List Byte
  deriving DecidableEq, Repr

/-- The bounds of R11. -/
abbrev Packet.Bounded (p : Packet) : Prop :=
  p.data.length ≤ dlenMax ∧ p.opt.length ≤ olenMax

/-- The five failures of `decode` (spec/00_scope.md R12). -/
inductive DecodeError where
  | framingError
  | syncError
  | headerChecksumError
  | lengthError
  | bodyChecksumError
  deriving DecidableEq, Repr

/-- The result of `decode` (R12). -/
inductive DecodeResult where
  | ok (p : Packet)
  | err (e : DecodeError)
  deriving DecidableEq, Repr

/-- The four header bytes (R110): the two lengths and the type. DESIGN CHOICE (log 18): of an over-long triple, which R112
and U11 exclude and N6 leaves unanswered, the lengths' low 16 and 8 bits; no claim about `encode` rests on that. -/
def packetHeader (p : Packet) : List Byte :=
  be16 (BitVec.ofNat 16 p.data.length) ++ [BitVec.ofNat 8 p.opt.length, p.ptype]

/-- `encode(p)` (R110), for a Packet within the bounds of R11; outside them see log 18. -/
def encodePacket (c : Config) (p : Packet) : List Byte :=
  [sync] ++ packetHeader p ++ [crc8 c (packetHeader p)] ++ (p.data ++ p.opt) ++ [crc8 c (p.data ++ p.opt)]

/-- The data length a chunk's header announces, high byte first (R63): 7 in the document's example `55 00 07 07 01` (R61). -/
def chunkDlen (b : List Byte) : Nat :=
  unbe16 (byteAt b 1) (byteAt b 2)

/-- The optional-data length a chunk's header announces (R64): 7 in the document's example (R61). -/
def chunkOlen (b : List Byte) : Nat :=
  (byteAt b 3).toNat

/-- The offset of the body checksum: `6 + dl + ol` (R60). -/
def bodyEnd (b : List Byte) : Nat :=
  6 + chunkDlen b + chunkOlen b

/-- `decode(b)` (R125): five checks in a fixed order, then the Packet. -/
def decodeChunk (c : Config) (b : List Byte) : DecodeResult :=
  if b.length < minChunk then .err .framingError
  else if byteAt b 0 ≠ sync then .err .syncError
  else if crc8 c (slice b 1 5) ≠ byteAt b 5 then .err .headerChecksumError
  else if b.length < overhead + chunkDlen b + chunkOlen b then .err .lengthError
  else if crc8 c (slice b 6 (bodyEnd b)) ≠ byteAt b (bodyEnd b) then .err .bodyChecksumError
  else .ok ⟨byteAt b 4, slice b 6 (6 + chunkDlen b), slice b (6 + chunkDlen b) (bodyEnd b)⟩

/-- How many bytes of the chunk `decode` reads, from offset 0 on (R133). -/
def decodeReach (c : Config) (b : List Byte) : Nat :=
  match decodeChunk c b with
  | .err .framingError => 0
  | .err .syncError => 1
  | .err .headerChecksumError => 6
  | .err .lengthError => 6
  | .err .bodyChecksumError => 7 + chunkDlen b + chunkOlen b
  | .ok _ => 7 + chunkDlen b + chunkOlen b

end Sys2Proof.Machine
end

