-- ==== Sys2Proof/Syntax.lean ====
section
/-!
DEFINITION. The instructions: one constructor per row of spec/opcode_table.json. Twenty-two are the command words of
spec/30_encoding.md R73; three are the frame rows (R60, R65). Operand widths are those of R72, so that a command holds
no operand its word could not carry.
-/

namespace Sys2Proof

/-- The rows of the opcode table. -/
inductive Instr where
  /-- `NOP` (R150). -/
  | nop
  /-- `CRC.CLR` (R95). -/
  | crcClr
  /-- `CRC.UPD v` (R96). -/
  | crcUpd (v : Byte)
  /-- `CRC.UPDFB a` (R97). -/
  | crcUpdfb (a : Word17)
  /-- `CRC.RD` (R98). -/
  | crcRd
  /-- `PKT.SETTYPE v` (R151). -/
  | pktSettype (v : Byte)
  /-- `PKT.SETDLEN n` (R152). -/
  | pktSetdlen (n : Word16)
  /-- `PKT.SETOLEN v` (R153). -/
  | pktSetolen (v : Byte)
  /-- `PKT.GETTYPE` (R154). -/
  | pktGettype
  /-- `PKT.GETDLEN` (R155). -/
  | pktGetdlen
  /-- `PKT.GETOLEN` (R156). -/
  | pktGetolen
  /-- `DATA.WR a, v` (R157). -/
  | dataWr (a : Word16) (v : Byte)
  /-- `DATA.RD a` (R158). -/
  | dataRd (a : Word16)
  /-- `OPT.WR a, v` (R159). -/
  | optWr (a : Byte) (v : Byte)
  /-- `OPT.RD a` (R160). -/
  | optRd (a : Byte)
  /-- `FB.WR a, v` (R161). -/
  | fbWr (a : Word17) (v : Byte)
  /-- `FB.RD a` (R162). -/
  | fbRd (a : Word17)
  /-- `FB.SETLEN n` (R163). -/
  | fbSetlen (n : Word17)
  /-- `FB.GETLEN` (R164). -/
  | fbGetlen
  /-- `ENCODE` (R113). -/
  | encode
  /-- `DECODE` (R134). -/
  | decode
  /-- `STATUS.RD` (R165). -/
  | statusRd
  /-- `FRAME` (R60): a frame of any type but the two that have a row of their own. The two checksum bytes are operands,
  so that a corrupted frame is a frame row too (log 8). -/
  | frame (ptype crch : Byte) (data opt : List Byte) (crcd : Byte)
  /-- `FRAME.RADIO_ERP1` (R65): a frame whose type byte is `TYPE_RADIO_ERP1`. -/
  | frameRadioErp1 (crch : Byte) (data opt : List Byte) (crcd : Byte)
  /-- `FRAME.RESPONSE` (R65): a frame whose type byte is `TYPE_RESPONSE`. -/
  | frameResponse (crch : Byte) (data opt : List Byte) (crcd : Byte)
  deriving DecidableEq, Repr

/-- What the host can present to the block (spec/70_reset_and_hazards.md R227): a command word, a chunk (the interaction
"hand over a chunk", which the frame rows stand for; log 7), or the reset event (R210). DESIGN CHOICE (log 19): reset is
no command (R210), and the model makes it an entry of the host's list all the same. -/
inductive HostEvent where
  | command (w : Word)
  | chunk (bs : List Byte)
  | reset
  deriving DecidableEq, Repr

/-- The row of the opcode table a constructor stands for, letter for letter. -/
def Instr.mnemonic : Instr → String
  | .nop => "NOP"
  | .crcClr => "CRC.CLR"
  | .crcUpd _ => "CRC.UPD"
  | .crcUpdfb _ => "CRC.UPDFB"
  | .crcRd => "CRC.RD"
  | .pktSettype _ => "PKT.SETTYPE"
  | .pktSetdlen _ => "PKT.SETDLEN"
  | .pktSetolen _ => "PKT.SETOLEN"
  | .pktGettype => "PKT.GETTYPE"
  | .pktGetdlen => "PKT.GETDLEN"
  | .pktGetolen => "PKT.GETOLEN"
  | .dataWr _ _ => "DATA.WR"
  | .dataRd _ => "DATA.RD"
  | .optWr _ _ => "OPT.WR"
  | .optRd _ => "OPT.RD"
  | .fbWr _ _ => "FB.WR"
  | .fbRd _ => "FB.RD"
  | .fbSetlen _ => "FB.SETLEN"
  | .fbGetlen => "FB.GETLEN"
  | .encode => "ENCODE"
  | .decode => "DECODE"
  | .statusRd => "STATUS.RD"
  | .frame _ _ _ _ _ => "FRAME"
  | .frameRadioErp1 _ _ _ _ => "FRAME.RADIO_ERP1"
  | .frameResponse _ _ _ _ => "FRAME.RESPONSE"

end Sys2Proof
end

