-- ==== Sys2Proof/Machine/State.lean ====
section
/-!
DEFINITION. The state: the ten components of spec/10_state.md R20, the host's program and its position in it (R24), and
one field of the model's own. Plain data.
-/

namespace Sys2Proof.Machine

/-- A buffer's contents: the bytes written since reset, as (address, byte) pairs with addresses strictly rising. An
address that is not listed was never written (R36). -/
abbrev Memory := List Host.Cell

/-- Everything the spec gives the machine. -/
structure State where
  /-- `CRC` (R22). -/
  crc : Byte
  /-- `DOUT` (R23). -/
  dout : Word
  /-- `PTYPE` (R26). -/
  ptype : Byte
  /-- `DLEN` (R27). -/
  dlen : Word16
  /-- `OLEN` (R28). -/
  olen : Byte
  /-- `FLEN` (R29). -/
  flen : Word17
  /-- `STATUS` (R30). -/
  status : Byte
  /-- `DATA` (R33). -/
  data : Memory
  /-- `OPT` (R33). -/
  opt : Memory
  /-- `FB` (R33). -/
  fb : Memory
  /-- The host's program (R24, R227): host state, held here so that a step is a function of the state (log 6). -/
  script : List HostEvent
  /-- The host's position in its program (R24). -/
  ip : Nat
  /-- The model's own: how many commands have read a never-written byte. It indexes the free values of such reads, and a
  run in which it grew is one the spec calls invalid (U1; log 4, log 5). -/
  unwrittenReads : Nat
  deriving DecidableEq, Repr

/-- Why a step stops with a fault. No constructor: every command finishes (spec/70_reset_and_hazards.md R226) and an
exception of the block stops nothing (spec/60_exceptions.md R180), so nothing raises a fault. -/
inductive Fault where
  deriving DecidableEq, Repr

/-- Why an instruction has no meaning. -/
inductive Refusal where
  /-- Raised by an arm of `exec` whose instruction is not modelled. Safe. No arm raises it now. -/
  | notModelled (mnemonic : String)
  deriving DecidableEq, Repr

/-- The machine right after reset (R36): `CRC` at `CRC_INIT`, the other registers 0, no buffer byte written; and a host
that has no program yet (log 6). -/
def State.reset : State where
  crc := config.crcInit
  dout := 0
  ptype := 0
  dlen := 0
  olen := 0
  flen := 0
  status := 0
  data := []
  opt := []
  fb := []
  script := []
  ip := 0
  unwrittenReads := 0

end Sys2Proof.Machine
end

