-- ==== Sys2Proof/Machine/Flags.lean ====
section
/-!
DEFINITION. The block has no flags (spec/10_state.md R25). Its one status register is `STATUS` (R30): the result codes
of spec/60_exceptions.md R181, how they are written and how the register reads.
-/

namespace Sys2Proof.Machine

/-- The eight result codes, by the names of R181. -/
inductive ResultCode where
  | ok
  | framingError
  | syncError
  | headerChecksumError
  | lengthError
  | bodyChecksumError
  | addressError
  | illegalCommand
  deriving DecidableEq, Repr

/-- `code(E)` (R181), the three bits of `STATUS[2:0]`. -/
def ResultCode.code : ResultCode → BitVec 3
  | .ok => 0
  | .framingError => 1
  | .syncError => 2
  | .headerChecksumError => 3
  | .lengthError => 4
  | .bodyChecksumError => 5
  | .addressError => 6
  | .illegalCommand => 7

/-- The exception `DECODE` raises for a failure of `decode` (R182 to R186). -/
def DecodeError.toCode : DecodeError → ResultCode
  | .framingError => .framingError
  | .syncError => .syncError
  | .headerChecksumError => .headerChecksumError
  | .lengthError => .lengthError
  | .bodyChecksumError => .bodyChecksumError

/-- `STATUS <- code(E)`: only `STATUS[2:0]` is written, the other bits are hard-wired to 0 (R30). -/
def State.setStatus (e : ResultCode) (s : State) : State :=
  { s with status := e.code.setWidth 8 }

/-- `STATUS` as it reads: `STATUS[7:3]` is hard-wired to 0 (R30; log 12). -/
def State.statusReg (s : State) : Byte :=
  s.status &&& 0x07

end Sys2Proof.Machine
end

