-- ==== Sys2Proof/Machine/Ops.lean ====
section
/-!
DEFINITION. The named operations over buffers and registers (spec/00_scope.md R13), raising an exception
(spec/60_exceptions.md R180), and the block's reset (spec/70_reset_and_hazards.md R210).
-/

namespace Sys2Proof.Machine

/-! ### One buffer -/

/-- The byte most recently written at an address, none when nothing was (spec/20_memory.md R47). -/
def Memory.read? : Memory → Nat → Option Byte
  | [], _ => none
  | (k, v) :: m, a => if k = a then some v else Memory.read? m a

/-- Writing one byte keeps the addresses rising. -/
def Memory.write : Memory → Nat → Byte → Memory
  | [], a, v => [(a, v)]
  | (k, w) :: m, a, v =>
    if a < k then (a, v) :: (k, w) :: m
    else if a = k then (a, v) :: m
    else (k, w) :: Memory.write m a v

/-- Writing a sequence from an address on, one byte at a time in ascending order (R13, R43). -/
def Memory.writes (m : Memory) (a : Nat) : List Byte → Memory
  | [] => m
  | b :: bs => Memory.writes (m.write a b) (a + 1) bs

/-- Whether every listed address is above `lo` and the addresses rise. -/
def Memory.risingAbove : Memory → Nat → Bool
  | [], _ => true
  | (k, _) :: m, lo => decide (lo < k) && Memory.risingAbove m k

/-- The canonical form: addresses strictly rising. An unlisted address reads as no value, so no entry can equal it. -/
def Memory.wf : Memory → Bool
  | [] => true
  | (k, _) :: m => Memory.risingAbove m k

/-- Whether every listed address is below the size of the buffer (spec/10_state.md R33). -/
def Memory.within (m : Memory) (size : Nat) : Bool :=
  m.all (fun cell => decide (cell.1 < size))

/-! ### Registers -/

/-- `CRC <- v`. -/
def State.setCrc (v : Byte) (s : State) : State := { s with crc := v }

/-- `DOUT <- v`. -/
def State.setDout (v : Word) (s : State) : State := { s with dout := v }

/-- `PTYPE <- v`. -/
def State.setPtype (v : Byte) (s : State) : State := { s with ptype := v }

/-- `DLEN <- v`. -/
def State.setDlen (v : Word16) (s : State) : State := { s with dlen := v }

/-- `OLEN <- v`. -/
def State.setOlen (v : Byte) (s : State) : State := { s with olen := v }

/-- `FLEN <- v`. -/
def State.setFlen (v : Word17) (s : State) : State := { s with flen := v }

/-! ### The three buffers of the state -/

/-- The contents of a buffer. -/
def State.buf (s : State) : Space → Memory
  | .data => s.data
  | .opt => s.opt
  | .fb => s.fb

/-- The state with other contents of one buffer. -/
def State.setBuf (S : Space) (m : Memory) (s : State) : State :=
  match S with
  | .data => { s with data := m }
  | .opt => { s with opt := m }
  | .fb => { s with fb := m }

/-- `MemRead(S, a)` (R13): the byte written there, or the free value when nothing was (U1; log 4). -/
def State.memRead (s : State) (S : Space) (a : Nat) : Byte :=
  ((s.buf S).read? a).getD (Config.unwrittenByte s.unwrittenReads S a)

/-- `MemRead(S, a, n)` (R13). -/
def State.memReads (s : State) (S : Space) (a n : Nat) : List Byte :=
  (List.range n).map (fun i => s.memRead S (a + i))

/-- `MemWrite(S, a, n, bs)` (R13): `n` is the length of `bs`. -/
def State.memWrites (S : Space) (a : Nat) (bs : List Byte) (s : State) : State :=
  s.setBuf S ((s.buf S).writes a bs)

/-- Whether every byte of a range was written since reset. -/
def State.written (s : State) (S : Space) (a n : Nat) : Bool :=
  (List.range n).all (fun i => ((s.buf S).read? (a + i)).isSome)

/-- The model's record of a command that read bytes: unless all of them were written, the count of U1 grows by one
(log 4, log 14). -/
def State.noteRead (allWritten : Bool) (s : State) : State :=
  { s with unwrittenReads := if allWritten then s.unwrittenReads else s.unwrittenReads + 1 }

/-! ### The Packet and the chunk the block holds -/

/-- `PKT` (spec/10_state.md R34). -/
def State.packet (s : State) : Packet :=
  ⟨s.ptype, s.memReads .data 0 s.dlen.toNat, s.memReads .opt 0 s.olen.toNat⟩

/-- `CHUNK` (R34). -/
def State.chunk (s : State) : List Byte :=
  s.memReads .fb 0 s.flen.toNat

/-! ### Exceptions and reset -/

/-- Raising an exception (R180): `STATUS <- code(E)` and no other component changes. There is no trap and no return
(R192, R193). -/
def State.raise (e : ResultCode) (s : State) : State :=
  s.setStatus e

/-- The host moves on to its next event (spec/10_state.md R24). -/
def State.advance (s : State) : State := { s with ip := s.ip + 1 }

/-- The reset event (R210): the seven registers take their reset values and every buffer byte counts as never written.
The configuration stays (R212). That the host's list and position (log 19) and the model's own count (log 5) stay too is
the model's choice. -/
def State.resetBlock (c : Config) (s : State) : State :=
  { s with
    crc := c.crcInit, dout := 0, ptype := 0, dlen := 0, olen := 0, flen := 0, status := 0,
    data := [], opt := [], fb := [] }

end Sys2Proof.Machine
end

