-- ==== Sys2Proof/Machine/Operands.lean ====
section
/-!
DEFINITION. The operand forms (spec/43_access.md section 3): the only addressing mode is absolute, an address is used as
given, and only frame-buffer operands can be out of range (spec/60_exceptions.md R188). A read operand is
zero-extended into `DOUT` (spec/20_memory.md R42).
-/

namespace Sys2Proof.Machine

/-- A frame-buffer address operand: `AddressError` when `a >= FB_SIZE`, else the effect on the address (R188). -/
def withFbAddress (a : Word17) (effect : Nat → State → State) (s : State) : State :=
  if fbSize ≤ a.toNat then s.raise .addressError else effect a.toNat s

/-- A frame-buffer length operand: `AddressError` when `n > FB_SIZE` (R188, R163). -/
def withFbLength (n : Word17) (effect : Word17 → State → State) (s : State) : State :=
  if fbSize < n.toNat then s.raise .addressError else effect n s

/-- `DOUT <- zext_32(v)` (R23). -/
def readReg {n : Nat} (v : BitVec n) (s : State) : State :=
  s.setDout (zext32 v)

/-- `DOUT <- zext_32(MemRead(S, a))` (R158, R160, R162). -/
def readByte (S : Space) (a : Nat) (s : State) : State :=
  (s.setDout (zext32 (s.memRead S a))).noteRead (s.written S a 1)

/-- `MemWrite(S, a, v)` (R157, R159, R161). -/
def writeByte (S : Space) (a : Nat) (v : Byte) (s : State) : State :=
  s.setBuf S ((s.buf S).write a v)

end Sys2Proof.Machine
end

