-- ==== Sys2Proof/Machine/AccessFamily.lean ====
section
/-!
DEFINITION. The access family, spec/43_access.md R150 to R165: `NOP`, the Packet registers, the buffers and
`STATUS.RD`. `CRC` is never touched, and `STATUS` changes only when an exception is raised.
-/

namespace Sys2Proof.Machine

/-- `NOP` (R150). -/
def execNop (s : State) : Host.Outcome State Fault Refusal :=
  .next s

/-- `PKT.SETTYPE v` (R151). -/
def execPktSettype (v : Byte) (s : State) : Host.Outcome State Fault Refusal :=
  .next (s.setPtype v)

/-- `PKT.SETDLEN n` (R152). -/
def execPktSetdlen (n : Word16) (s : State) : Host.Outcome State Fault Refusal :=
  .next (s.setDlen n)

/-- `PKT.SETOLEN v` (R153). -/
def execPktSetolen (v : Byte) (s : State) : Host.Outcome State Fault Refusal :=
  .next (s.setOlen v)

/-- `PKT.GETTYPE` (R154). -/
def execPktGettype (s : State) : Host.Outcome State Fault Refusal :=
  .next (readReg s.ptype s)

/-- `PKT.GETDLEN` (R155). -/
def execPktGetdlen (s : State) : Host.Outcome State Fault Refusal :=
  .next (readReg s.dlen s)

/-- `PKT.GETOLEN` (R156). -/
def execPktGetolen (s : State) : Host.Outcome State Fault Refusal :=
  .next (readReg s.olen s)

/-- `DATA.WR a, v` (R157). -/
def execDataWr (a : Word16) (v : Byte) (s : State) : Host.Outcome State Fault Refusal :=
  .next (writeByte .data a.toNat v s)

/-- `DATA.RD a` (R158). -/
def execDataRd (a : Word16) (s : State) : Host.Outcome State Fault Refusal :=
  .next (readByte .data a.toNat s)

/-- `OPT.WR a, v` (R159). -/
def execOptWr (a v : Byte) (s : State) : Host.Outcome State Fault Refusal :=
  .next (writeByte .opt a.toNat v s)

/-- `OPT.RD a` (R160). -/
def execOptRd (a : Byte) (s : State) : Host.Outcome State Fault Refusal :=
  .next (readByte .opt a.toNat s)

/-- `FB.WR a, v` (R161). -/
def execFbWr (a : Word17) (v : Byte) (s : State) : Host.Outcome State Fault Refusal :=
  .next (withFbAddress a (fun k => writeByte .fb k v) s)

/-- `FB.RD a` (R162). -/
def execFbRd (a : Word17) (s : State) : Host.Outcome State Fault Refusal :=
  .next (withFbAddress a (readByte .fb) s)

/-- `FB.SETLEN n` (R163). -/
def execFbSetlen (n : Word17) (s : State) : Host.Outcome State Fault Refusal :=
  .next (withFbLength n State.setFlen s)

/-- `FB.GETLEN` (R164). -/
def execFbGetlen (s : State) : Host.Outcome State Fault Refusal :=
  .next (readReg s.flen s)

/-- `DOUT <- zext_32(STATUS)` (R165). -/
def readStatus (s : State) : State :=
  readReg s.statusReg s

/-- `STATUS.RD` (R165). -/
def execStatusRd (s : State) : Host.Outcome State Fault Refusal :=
  .next (readStatus s)

end Sys2Proof.Machine
end

