-- ==== Sys2Proof/Machine/CodecFamily.lean ====
section
/-!
DEFINITION. `ENCODE` (spec/41_encode.md R113) and `DECODE` (spec/42_decode.md R134): the Layer F functions applied to the
bytes the block holds. The operations take the configuration (spec/00_scope.md R8).
-/

namespace Sys2Proof.Machine

/-- The number of bytes of the frame of the Packet the block holds: `7 + DLEN + OLEN`, no wrap (R113, R94). -/
def State.frameLen (s : State) : Nat :=
  overhead + s.dlen.toNat + s.olen.toNat

/-- `ENCODE` (R113): the frame of `PKT` into `FB`, its length into `FLEN`, `STATUS <- 0`. -/
def encodeOp (c : Config) (s : State) : State :=
  (((s.memWrites .fb 0 (encodePacket c s.packet)).setFlen (BitVec.ofNat 17 s.frameLen)).setStatus .ok).noteRead
    (s.written .data 0 s.dlen.toNat && s.written .opt 0 s.olen.toNat)

/-- A successful `DECODE` (R134): the Packet into its registers and buffers, `STATUS <- 0`. -/
def State.loadPacket (p : Packet) (s : State) : State :=
  (((((s.setPtype p.ptype).setDlen (BitVec.ofNat 16 p.data.length)).setOlen (BitVec.ofNat 8 p.opt.length)).memWrites
    .data 0 p.data).memWrites .opt 0 p.opt).setStatus .ok

/-- What `DECODE` does with the result of `decode` (R134): a failure is raised, a Packet is loaded. -/
def State.takeResult (r : DecodeResult) (s : State) : State :=
  match r with
  | .err e => s.raise e.toCode
  | .ok p => s.loadPacket p

/-- `DECODE` (R134). Only the bytes `decode` reads count as read (R133; log 14). -/
def decodeOp (c : Config) (s : State) : State :=
  (s.takeResult (decodeChunk c s.chunk)).noteRead (s.written .fb 0 (decodeReach c s.chunk))

/-- `ENCODE` for a table and start value (R113). -/
def execEncodeFor (c : Config) (s : State) : Host.Outcome State Fault Refusal :=
  .next (encodeOp c s)

/-- `DECODE` for a table and start value (R134). -/
def execDecodeFor (c : Config) (s : State) : Host.Outcome State Fault Refusal :=
  .next (decodeOp c s)

/-- `ENCODE` (R113). -/
def execEncode (s : State) : Host.Outcome State Fault Refusal :=
  execEncodeFor config s

/-- `DECODE` (R134). -/
def execDecode (s : State) : Host.Outcome State Fault Refusal :=
  execDecodeFor config s

end Sys2Proof.Machine
end

