-- ==== Sys2Proof/Machine/CrcFamily.lean ====
section
/-!
DEFINITION. The CRC8 family, spec/40_crc8.md R95 to R98. What depends on the table or the
start value takes the configuration (spec/00_scope.md R8); the plain name is the same meaning under the defaults.
-/

namespace Sys2Proof.Machine

/-- `CRC <- CRC_INIT` (R95). -/
def clearCrc (c : Config) (s : State) : State :=
  s.setCrc c.crcInit

/-- `CRC <- crc_step(CRC, v)` (R96). -/
def foldByte (c : Config) (v : Byte) (s : State) : State :=
  s.setCrc (crcStep c s.crc v)

/-- `CRC <- crc_step(CRC, MemRead(FB, a))` for an address in range (R97). -/
def foldFb (c : Config) (a : Nat) (s : State) : State :=
  (foldByte c (s.memRead .fb a) s).noteRead (s.written .fb a 1)

/-- `CRC.CLR` for a start value (R95). -/
def execCrcClrFor (c : Config) (s : State) : Host.Outcome State Fault Refusal :=
  .next (clearCrc c s)

/-- `CRC.UPD v` for a table (R96). -/
def execCrcUpdFor (c : Config) (v : Byte) (s : State) : Host.Outcome State Fault Refusal :=
  .next (foldByte c v s)

/-- `CRC.UPDFB a` for a table (R97). -/
def execCrcUpdfbFor (c : Config) (a : Word17) (s : State) : Host.Outcome State Fault Refusal :=
  .next (withFbAddress a (foldFb c) s)

/-- `CRC.CLR` (R95). -/
def execCrcClr (s : State) : Host.Outcome State Fault Refusal :=
  execCrcClrFor config s

/-- `CRC.UPD v` (R96). -/
def execCrcUpd (v : Byte) (s : State) : Host.Outcome State Fault Refusal :=
  execCrcUpdFor config v s

/-- `CRC.UPDFB a` (R97). -/
def execCrcUpdfb (a : Word17) (s : State) : Host.Outcome State Fault Refusal :=
  execCrcUpdfbFor config a s

/-- `CRC.RD` (R98). -/
def execCrcRd (s : State) : Host.Outcome State Fault Refusal :=
  .next (readReg s.crc s)

end Sys2Proof.Machine
end

