-- ==== Sys2Proof/WellFormed.lean ====
section
/-!
DEFINITION. Which instructions an encoding exists for. A command's operand widths (spec/30_encoding.md R72) already
exclude every operand its word cannot carry. A frame's two sequences must fit their length fields (spec/00_scope.md R11),
and the generic row does not stand for the two types that have a row of their own.
-/

namespace Sys2Proof

/-- The two sequences fit the 2-byte and the 1-byte length field (R11). -/
def lengthsFit (data opt : List Byte) : Bool :=
  decide (data.length ≤ Machine.dlenMax) && decide (opt.length ≤ Machine.olenMax)

/-- The check. -/
def Instr.wellFormed : Instr → Bool
  | .nop => true
  | .crcClr => true
  | .crcUpd _ => true
  | .crcUpdfb _ => true
  | .crcRd => true
  | .pktSettype _ => true
  | .pktSetdlen _ => true
  | .pktSetolen _ => true
  | .pktGettype => true
  | .pktGetdlen => true
  | .pktGetolen => true
  | .dataWr _ _ => true
  | .dataRd _ => true
  | .optWr _ _ => true
  | .optRd _ => true
  | .fbWr _ _ => true
  | .fbRd _ => true
  | .fbSetlen _ => true
  | .fbGetlen => true
  | .encode => true
  | .decode => true
  | .statusRd => true
  | .frame t _ d o _ => t != Machine.typeRadioErp1 && t != Machine.typeResponse && lengthsFit d o
  | .frameRadioErp1 _ d o _ => lengthsFit d o
  | .frameResponse _ d o _ => lengthsFit d o

/-- An instruction the encodings can express. -/
abbrev Instr.WellFormed (i : Instr) : Prop := i.wellFormed = true

end Sys2Proof
end

