-- ==== Sys2Proof/Decode.lean ====
section
/-!
DEFINITION. Decoding a command word (spec/30_encoding.md R71 to R75) and the layout of a frame (R60), and the encoder
written from the same tables. Decoding is total and refuses by name.
-/

namespace Sys2Proof

/-- Why an event carries no instruction. -/
inductive Reject where
  /-- The word's `OP` is one of the ten unassigned codes (R74 a). -/
  | unassignedOp (op : BitVec 5)
  /-- The word's `OP` is assigned to this mnemonic, but a bit that must be 0 is 1 (R74 b). -/
  | mustBeZero (mnemonic : String)
  /-- A chunk of fewer than the six bytes up to the header checksum is no frame. -/
  | shortHeader
  /-- A chunk whose first byte is not the sync byte is no frame (R62). -/
  | noSync
  /-- A chunk that is longer or shorter than its length fields say is not one frame (R69). -/
  | wrongLength
  /-- The reset event is no instruction (spec/43_access.md R166). -/
  | resetEvent
  deriving DecidableEq, Repr

/-! ### The command word -/

/-- `OP` = `W[31:27]` (R71). -/
def opField (w : Word) : BitVec 5 := w.extractLsb' 27 5

/-- `A` = `W[24:8]` (R71). -/
def aField (w : Word) : Word17 := w.extractLsb' 8 17

/-- `V` = `W[7:0]` (R71). -/
def vField (w : Word) : Byte := w.extractLsb' 0 8

/-- A row of the opcode map R73: the code, the two 32-bit patterns of the columns "match" and "mask", and how the
operands `A` and `V` make the command (R72). -/
structure CommandRow where
  mnemonic : String
  op : BitVec 5
  pattern : Word
  mask : Word
  build : Word17 → Byte → Instr

/-- The rows of `NOP` and the CRC8 family (R73). -/
def crcRows : List CommandRow :=
  [⟨"NOP", 0x00, 0x00000000, 0xFFFFFFFF, fun _ _ => .nop⟩,
   ⟨"CRC.CLR", 0x01, 0x08000000, 0xFFFFFFFF, fun _ _ => .crcClr⟩,
   ⟨"CRC.UPD", 0x02, 0x10000000, 0xFFFFFF00, fun _ v => .crcUpd v⟩,
   ⟨"CRC.UPDFB", 0x03, 0x18000000, 0xFE0000FF, fun a _ => .crcUpdfb a⟩,
   ⟨"CRC.RD", 0x04, 0x20000000, 0xFFFFFFFF, fun _ _ => .crcRd⟩]

/-- The rows of the Packet registers (R73). -/
def packetRows : List CommandRow :=
  [⟨"PKT.SETTYPE", 0x08, 0x40000000, 0xFFFFFF00, fun _ v => .pktSettype v⟩,
   ⟨"PKT.SETDLEN", 0x09, 0x48000000, 0xFF0000FF, fun a _ => .pktSetdlen (a.setWidth 16)⟩,
   ⟨"PKT.SETOLEN", 0x0A, 0x50000000, 0xFFFFFF00, fun _ v => .pktSetolen v⟩,
   ⟨"PKT.GETTYPE", 0x0B, 0x58000000, 0xFFFFFFFF, fun _ _ => .pktGettype⟩,
   ⟨"PKT.GETDLEN", 0x0C, 0x60000000, 0xFFFFFFFF, fun _ _ => .pktGetdlen⟩,
   ⟨"PKT.GETOLEN", 0x0D, 0x68000000, 0xFFFFFFFF, fun _ _ => .pktGetolen⟩]

/-- The rows of the buffers (R73). -/
def bufferRows : List CommandRow :=
  [⟨"DATA.WR", 0x10, 0x80000000, 0xFF000000, fun a v => .dataWr (a.setWidth 16) v⟩,
   ⟨"DATA.RD", 0x11, 0x88000000, 0xFF0000FF, fun a _ => .dataRd (a.setWidth 16)⟩,
   ⟨"OPT.WR", 0x12, 0x90000000, 0xFFFF0000, fun a v => .optWr (a.setWidth 8) v⟩,
   ⟨"OPT.RD", 0x13, 0x98000000, 0xFFFF00FF, fun a _ => .optRd (a.setWidth 8)⟩,
   ⟨"FB.WR", 0x14, 0xA0000000, 0xFE000000, fun a v => .fbWr a v⟩,
   ⟨"FB.RD", 0x15, 0xA8000000, 0xFE0000FF, fun a _ => .fbRd a⟩,
   ⟨"FB.SETLEN", 0x16, 0xB0000000, 0xFE0000FF, fun a _ => .fbSetlen a⟩,
   ⟨"FB.GETLEN", 0x17, 0xB8000000, 0xFFFFFFFF, fun _ _ => .fbGetlen⟩]

/-- The rows of `ENCODE`, `DECODE` and `STATUS.RD` (R73). -/
def codecRows : List CommandRow :=
  [⟨"ENCODE", 0x18, 0xC0000000, 0xFFFFFFFF, fun _ _ => .encode⟩,
   ⟨"DECODE", 0x19, 0xC8000000, 0xFFFFFFFF, fun _ _ => .decode⟩,
   ⟨"STATUS.RD", 0x1A, 0xD0000000, 0xFFFFFFFF, fun _ _ => .statusRd⟩]

/-- The opcode map of R73, 22 rows. -/
def commandTable : List CommandRow :=
  crcRows ++ (packetRows ++ (bufferRows ++ codecRows))

/-- Decoding a command word (R75): the row with the word's `OP`, then the check of `match` and `mask`, then the
operands. -/
def decodeCommand (w : Word) : Except Reject Instr :=
  match commandTable.find? (fun r => r.op == opField w) with
  | none => .error (.unassignedOp (opField w))
  | some r =>
    if w &&& r.mask = r.pattern then .ok (r.build (aField w) (vField w))
    else .error (.mustBeZero r.mnemonic)

/-! ### The frame -/

/-- The row a frame of type `t` belongs to (R65): the two named types have rows of their own. -/
def frameRow (t crch : Byte) (data opt : List Byte) (crcd : Byte) : Instr :=
  if t = Machine.typeRadioErp1 then .frameRadioErp1 crch data opt crcd
  else if t = Machine.typeResponse then .frameResponse crch data opt crcd
  else .frame t crch data opt crcd

/-- Reading a chunk that is exactly one frame of the layout R60, which the document's example `55 00 07 07 01` (R61)
confirms: sync, data length 7, optional-data length 7, type 01. The checksum bytes are read, not judged: judging them is
what the block's `decode` does (log 8). -/
def decodeFrame : List Byte → Except Reject Instr
  | s :: dh :: dl :: ol :: t :: h :: rest =>
    if s ≠ Machine.sync then .error .noSync
    else if rest.length ≠ Machine.unbe16 dh dl + ol.toNat + 1 then .error .wrongLength
    else .ok (frameRow t h (Machine.slice rest 0 (Machine.unbe16 dh dl))
      (Machine.slice rest (Machine.unbe16 dh dl) (Machine.unbe16 dh dl + ol.toNat))
      (Machine.byteAt rest (Machine.unbe16 dh dl + ol.toNat)))
  | _ => .error .shortHeader

/-- Decoding whatever the host presents. -/
def decode : HostEvent → Except Reject Instr
  | .command w => decodeCommand w
  | .chunk bs => decodeFrame bs
  | .reset => .error .resetEvent

/-! ### The encoder -/

/-- `W = OP * 2^27 + A * 2^8 + V` with `Z = 0` (R73), the products as shifts. -/
def commandWord (op : BitVec 5) (a : Word17) (v : Byte) : Word :=
  op.setWidth 32 <<< 27 + a.setWidth 32 <<< 8 + v.setWidth 32

/-- The bytes of a frame with the given type, checksum bytes, data and optional data, in the order of R60. Of over-long
sequences, which `Instr.WellFormed` excludes, the length fields hold the low bits (DESIGN CHOICE, log 18). -/
def frameBytes (t crch : Byte) (data opt : List Byte) (crcd : Byte) : List Byte :=
  Machine.sync :: (Machine.be16 (BitVec.ofNat 16 data.length) ++
    (BitVec.ofNat 8 opt.length :: t :: crch :: (data ++ (opt ++ [crcd]))))

/-- The encoder: what the host presents for an instruction. -/
def encode : Instr → HostEvent
  | .nop => .command (commandWord 0x00 0 0)
  | .crcClr => .command (commandWord 0x01 0 0)
  | .crcUpd v => .command (commandWord 0x02 0 v)
  | .crcUpdfb a => .command (commandWord 0x03 a 0)
  | .crcRd => .command (commandWord 0x04 0 0)
  | .pktSettype v => .command (commandWord 0x08 0 v)
  | .pktSetdlen n => .command (commandWord 0x09 (n.setWidth 17) 0)
  | .pktSetolen v => .command (commandWord 0x0A 0 v)
  | .pktGettype => .command (commandWord 0x0B 0 0)
  | .pktGetdlen => .command (commandWord 0x0C 0 0)
  | .pktGetolen => .command (commandWord 0x0D 0 0)
  | .dataWr a v => .command (commandWord 0x10 (a.setWidth 17) v)
  | .dataRd a => .command (commandWord 0x11 (a.setWidth 17) 0)
  | .optWr a v => .command (commandWord 0x12 (a.setWidth 17) v)
  | .optRd a => .command (commandWord 0x13 (a.setWidth 17) 0)
  | .fbWr a v => .command (commandWord 0x14 a v)
  | .fbRd a => .command (commandWord 0x15 a 0)
  | .fbSetlen n => .command (commandWord 0x16 n 0)
  | .fbGetlen => .command (commandWord 0x17 0 0)
  | .encode => .command (commandWord 0x18 0 0)
  | .decode => .command (commandWord 0x19 0 0)
  | .statusRd => .command (commandWord 0x1A 0 0)
  | .frame t h d o b => .chunk (frameBytes t h d o b)
  | .frameRadioErp1 h d o b => .chunk (frameBytes Machine.typeRadioErp1 h d o b)
  | .frameResponse h d o b => .chunk (frameBytes Machine.typeResponse h d o b)

/-! ### The numbering of the opcode table -/

/-- The `n` bytes of `w`, the most significant first: how the table numbers a frame row ("byte 0 most significant",
spec/opcode_table.json, row FRAME). -/
def bytesOfNat (n w : Nat) : List Byte :=
  (List.range n).map (fun j => BitVec.ofNat 8 (w / 256 ^ (n - 1 - j)))

/-- A row's bits as an event. Up to 32 bits they are a command word; more are the first bytes of a frame, and every byte
the frame has above them is 0 (log 13). -/
def tableEvent (nbits w : Nat) : HostEvent :=
  if nbits ≤ 32 then .command (BitVec.ofNat 32 w)
  else
    let bs := bytesOfNat (nbits / 8) w
    let total := 7 + Machine.unbe16 (Machine.byteAt bs 1) (Machine.byteAt bs 2) + (Machine.byteAt bs 3).toNat
    .chunk (bs ++ List.replicate (total - bs.length) 0)

/-- The instruction the decoder reads from a row's bits. -/
def decodeTableWord (nbits w : Nat) : Option Instr :=
  match decode (tableEvent nbits w) with
  | .ok i => some i
  | .error _ => none

end Sys2Proof
end

