-- ==== Sys2Proof/Machine/FrameFamily.lean ====
section
/-!
DEFINITION. The frame rows of the opcode table. A frame is no command; the host hands it over as a chunk, by the
interaction of spec/70_reset_and_hazards.md R227: `FB.WR` for each byte, `FB.SETLEN`, `DECODE`, `STATUS.RD`. That
sequence, with nothing of another party in between (spec/20_memory.md R48), is the meaning of the three rows (log 7).
-/

namespace Sys2Proof.Machine

/-- `FB.WR` for each byte and `FB.SETLEN` (R77, `FB.LOAD`). Of a chunk longer than `FB` the first `FB_SIZE` bytes are
loaded (spec/42_decode.md R136; log 9). -/
def loadChunk (bs : List Byte) (s : State) : State :=
  (s.memWrites .fb 0 (bs.take fbSize)).setFlen (BitVec.ofNat 17 (bs.take fbSize).length)

/-- The interaction "hand over a chunk" (R227). -/
def handOverChunk (c : Config) (bs : List Byte) (s : State) : State :=
  readStatus (decodeOp c (loadChunk bs s))

/-- `FRAME` for a table and start value (R60). -/
def execFrameFor (c : Config) (t h : Byte) (d o : List Byte) (b : Byte) (s : State) : Host.Outcome State Fault Refusal :=
  .next (handOverChunk c (frameBytes t h d o b) s)

/-- `FRAME.RADIO_ERP1` for a table and start value (R65). -/
def execFrameRadioErp1For (c : Config) (h : Byte) (d o : List Byte) (b : Byte) (s : State) :
    Host.Outcome State Fault Refusal :=
  .next (handOverChunk c (frameBytes typeRadioErp1 h d o b) s)

/-- `FRAME.RESPONSE` for a table and start value (R65). -/
def execFrameResponseFor (c : Config) (h : Byte) (d o : List Byte) (b : Byte) (s : State) :
    Host.Outcome State Fault Refusal :=
  .next (handOverChunk c (frameBytes typeResponse h d o b) s)

/-- `FRAME` (R60). -/
def execFrame (t h : Byte) (d o : List Byte) (b : Byte) (s : State) : Host.Outcome State Fault Refusal :=
  execFrameFor config t h d o b s

/-- `FRAME.RADIO_ERP1` (R65). -/
def execFrameRadioErp1 (h : Byte) (d o : List Byte) (b : Byte) (s : State) : Host.Outcome State Fault Refusal :=
  execFrameRadioErp1For config h d o b s

/-- `FRAME.RESPONSE` (R65). -/
def execFrameResponse (h : Byte) (d o : List Byte) (b : Byte) (s : State) : Host.Outcome State Fault Refusal :=
  execFrameResponseFor config h d o b s

end Sys2Proof.Machine
end

