-- ==== Sys2Proof/Machine/Dispatch.lean ====
section
/-! DEFINITION. The meaning of each instruction: one arm per row of spec/opcode_table.json. -/

namespace Sys2Proof.Machine

def exec (i : Instr) (s : State) : Host.Outcome State Fault Refusal :=
  match i with
  | .nop => Sys2Proof.Machine.execNop s
  | .crcClr => Sys2Proof.Machine.execCrcClr s
  | .crcUpd v => Sys2Proof.Machine.execCrcUpd v s
  | .crcUpdfb a => Sys2Proof.Machine.execCrcUpdfb a s
  | .crcRd => Sys2Proof.Machine.execCrcRd s
  | .pktSettype v => Sys2Proof.Machine.execPktSettype v s
  | .pktSetdlen n => Sys2Proof.Machine.execPktSetdlen n s
  | .pktSetolen v => Sys2Proof.Machine.execPktSetolen v s
  | .pktGettype => Sys2Proof.Machine.execPktGettype s
  | .pktGetdlen => Sys2Proof.Machine.execPktGetdlen s
  | .pktGetolen => Sys2Proof.Machine.execPktGetolen s
  | .dataWr a v => Sys2Proof.Machine.execDataWr a v s
  | .dataRd a => Sys2Proof.Machine.execDataRd a s
  | .optWr a v => Sys2Proof.Machine.execOptWr a v s
  | .optRd a => Sys2Proof.Machine.execOptRd a s
  | .fbWr a v => Sys2Proof.Machine.execFbWr a v s
  | .fbRd a => Sys2Proof.Machine.execFbRd a s
  | .fbSetlen n => Sys2Proof.Machine.execFbSetlen n s
  | .fbGetlen => Sys2Proof.Machine.execFbGetlen s
  | .encode => Sys2Proof.Machine.execEncode s
  | .decode => Sys2Proof.Machine.execDecode s
  | .statusRd => Sys2Proof.Machine.execStatusRd s
  | .frame t h d o b => Sys2Proof.Machine.execFrame t h d o b s
  | .frameRadioErp1 h d o b => Sys2Proof.Machine.execFrameRadioErp1 h d o b s
  | .frameResponse h d o b => Sys2Proof.Machine.execFrameResponse h d o b s

end Sys2Proof.Machine
end

