-- ==== Sys2Proof/Machine/Port.lean ====
section
/-!
DEFINITION. What the block does with what carries no instruction, fetching the host's next event, and the shape of a
step (spec/10_state.md R24, spec/30_encoding.md R74), for every meaning of the instructions and every configuration
(spec/00_scope.md R8).
-/

namespace Sys2Proof.Machine

/-- The host's next event, none when its program has ended (R24, R228). -/
def State.nextEvent? (s : State) : Option HostEvent :=
  s.script[s.ip]?

/-- An illegal command word raises `IllegalCommand` and does nothing else (R74, spec/60_exceptions.md R187). -/
def rejectCommand (s : State) : State :=
  s.raise .illegalCommand

/-- A chunk that is not one frame is handed over all the same: `DECODE` says what is wrong with it (R227; log 7). -/
def rejectChunk (c : Config) (bs : List Byte) (s : State) : State :=
  handOverChunk c bs s

/-- The reset event between two commands (spec/70_reset_and_hazards.md R210). Its place in the host's list is the model's
choice (log 19). -/
def resetEvent (c : Config) (s : State) : State :=
  s.resetBlock c

/-- The block with no command pending keeps all state (spec/60_exceptions.md section 8, H6; log 10). -/
def idle (s : State) : State := s

/-- What the block does with an event, when `run` is the meaning of the instructions. -/
def runEventBy (run : Instr → State → Host.Outcome State Fault Refusal) (c : Config) (e : HostEvent) (s : State) :
    Host.Outcome State Fault Refusal :=
  match e with
  | .command w =>
    match decodeCommand w with
    | .ok i => run i s
    | .error _ => .next (rejectCommand s)
  | .chunk bs =>
    match decodeFrame bs with
    | .ok i => run i s
    | .error _ => .next (rejectChunk c bs s)
  | .reset => .next (resetEvent c s)

/-- One step, when `run` is the meaning of the instructions: the host presents its next event, its position moves on by
one whatever the outcome, and the block runs the event atomically to completion (spec/20_memory.md R48). R24 says so of
a command; that a chunk (log 7) and the reset event (DESIGN CHOICE, log 19) are entries that count one too is the model's. -/
def stepBy (run : Instr → State → Host.Outcome State Fault Refusal) (c : Config) (s : State) :
    Host.Outcome State Fault Refusal :=
  match s.nextEvent? with
  | none => .next (idle s)
  | some e => runEventBy run c e s.advance

/-- The program with one event put at a position, filled up with `NOP` words where the position lies behind its end. -/
def placeEvent (script : List HostEvent) (ip : Nat) (e : HostEvent) : List HostEvent :=
  (script ++ List.replicate (ip - script.length) (HostEvent.command 0)).take ip ++ (e :: script.drop (ip + 1))

end Sys2Proof.Machine
end

