-- ==== Sys2Proof/Machine/Step.lean ====
section
/-!
DEFINITION. One step of the machine, under the default configuration; Sys2Proof/Machine/AnyConfig.lean has it for every
configuration.
-/

namespace Sys2Proof.Machine

/-- One step of the machine. -/
def step (s : State) : Host.Outcome State Fault Refusal :=
  stepBy exec config s

/-- The state with a row's instruction as the host's next event (log 6, log 13). -/
def State.withFetchWord (s : State) (nbits w : Nat) : State :=
  { s with script := placeEvent s.script s.ip (tableEvent nbits w) }

end Sys2Proof.Machine
end

