-- ==== Sys2Proof/Machine/Pseudo.lean ====
section
/-!
DEFINITION. The pseudo-commands of spec/30_encoding.md R77, each a fixed expansion into commands; running a command list
(spec/10_state.md R24, spec/70_reset_and_hazards.md R228); and the text of a command (R76). They add nothing to the block.
-/

namespace Sys2Proof.Machine

/-- `k` commands, each a function of its index: the `...` of R77's expansions. -/
def repeatFor (k : Nat) (f : Nat → Instr) : List Instr :=
  (List.range k).map f

/-- `CRC8 b0, ..., bk` (R77). -/
def expandCrc8 (bs : List Byte) : List Instr :=
  .crcClr :: (bs.map Instr.crcUpd ++ [.crcRd])

/-- `PKT.LOAD t, [...], [...]` (R77), for a Packet within the bounds of R11 (log 18). -/
def expandPktLoad (p : Packet) : List Instr :=
  .pktSettype p.ptype :: .pktSetdlen (BitVec.ofNat 16 p.data.length) :: .pktSetolen (BitVec.ofNat 8 p.opt.length) ::
    (repeatFor p.data.length (fun i => .dataWr (BitVec.ofNat 16 i) (byteAt p.data i)) ++
      repeatFor p.opt.length (fun i => .optWr (BitVec.ofNat 8 i) (byteAt p.opt i)))

/-- `FB.LOAD [...]` (R77). DESIGN CHOICE (log 20): R77 gives no expansion where an address or the length needs more than
the 17 bits of `A`, a sequence of more than 131071 bytes; here the operand is its low 17 bits. -/
def expandFbLoad (bs : List Byte) : List Instr :=
  repeatFor bs.length (fun i => .fbWr (BitVec.ofNat 17 i) (byteAt bs i)) ++ [.fbSetlen (BitVec.ofNat 17 bs.length)]

/-- `CRC8FB a, n` (R77). DESIGN CHOICE (log 20): R77 gives no expansion where an address `a + i` is above 131071; here the
operand is its low 17 bits. -/
def expandCrc8Fb (a n : Nat) : List Instr :=
  .crcClr :: (repeatFor n (fun i => .crcUpdfb (BitVec.ofNat 17 (a + i))) ++ [.crcRd])

/-- Running a list of commands one after another (R24), when `run` is the meaning of the instructions. -/
def execAllBy (run : Instr → State → Host.Outcome State Fault Refusal) :
    List Instr → State → Host.Outcome State Fault Refusal
  | [], s => .next s
  | i :: is, s =>
    match run i s with
    | .next t => execAllBy run is t
    | .fault r => .fault r
    | .refused r => .refused r

/-- Running a list of commands under the default configuration. -/
def execAll (is : List Instr) (s : State) : Host.Outcome State Fault Refusal :=
  execAllBy exec is s

/-- One hexadecimal digit. -/
def hexDigit (n : Nat) : String :=
  (["0", "1", "2", "3", "4", "5", "6", "7", "8", "9", "A", "B", "C", "D", "E", "F"] : List String).getD n "0"

/-- A byte operand as text: hexadecimal with the `0x` mark (R76). -/
def byteText (v : Byte) : String :=
  "0x" ++ hexDigit (v.toNat / 16) ++ hexDigit (v.toNat % 16)

/-- The operands of a command as text: address first, byte last, addresses decimal (R76). Frame rows have no assembler
text. -/
def operandText : Instr → List String
  | .crcUpd v => [byteText v]
  | .crcUpdfb a => [Nat.repr a.toNat]
  | .pktSettype v => [byteText v]
  | .pktSetdlen n => [Nat.repr n.toNat]
  | .pktSetolen v => [Nat.repr v.toNat]
  | .dataWr a v => [Nat.repr a.toNat, byteText v]
  | .dataRd a => [Nat.repr a.toNat]
  | .optWr a v => [Nat.repr a.toNat, byteText v]
  | .optRd a => [Nat.repr a.toNat]
  | .fbWr a v => [Nat.repr a.toNat, byteText v]
  | .fbRd a => [Nat.repr a.toNat]
  | .fbSetlen n => [Nat.repr n.toNat]
  | .nop => []
  | .crcClr => []
  | .crcRd => []
  | .pktGettype => []
  | .pktGetdlen => []
  | .pktGetolen => []
  | .fbGetlen => []
  | .encode => []
  | .decode => []
  | .statusRd => []
  | .frame _ _ _ _ _ => []
  | .frameRadioErp1 _ _ _ _ => []
  | .frameResponse _ _ _ _ => []

/-- A command as one line of text (R76). -/
def commandText (i : Instr) : String :=
  match operandText i with
  | [] => i.mnemonic
  | ops => i.mnemonic ++ " " ++ ", ".intercalate ops

end Sys2Proof.Machine
end

