-- ==== Sys2Proof/Machine/AnyConfig.lean ====
section
/-!
DEFINITION. The machine for every table and every start value (spec/00_scope.md R8, spec/10_state.md R20): the
configuration is an argument of the step, of the meanings that depend on it and of the reset state. `exec`, `step`,
`State.reset`, `execAll` and `core` are these at the defaults of R7.
-/

namespace Sys2Proof.Machine

/-- The meaning of each instruction for a configuration. Only the eight instructions that fold a checksum or load
`CRC_INIT` use it. -/
def execFor (c : Config) (i : Instr) (s : State) : Host.Outcome State Fault Refusal :=
  match i with
  | .nop => execNop s
  | .crcClr => execCrcClrFor c s
  | .crcUpd v => execCrcUpdFor c v s
  | .crcUpdfb a => execCrcUpdfbFor c a s
  | .crcRd => execCrcRd s
  | .pktSettype v => execPktSettype v s
  | .pktSetdlen n => execPktSetdlen n s
  | .pktSetolen v => execPktSetolen v s
  | .pktGettype => execPktGettype s
  | .pktGetdlen => execPktGetdlen s
  | .pktGetolen => execPktGetolen s
  | .dataWr a v => execDataWr a v s
  | .dataRd a => execDataRd a s
  | .optWr a v => execOptWr a v s
  | .optRd a => execOptRd a s
  | .fbWr a v => execFbWr a v s
  | .fbRd a => execFbRd a s
  | .fbSetlen n => execFbSetlen n s
  | .fbGetlen => execFbGetlen s
  | .encode => execEncodeFor c s
  | .decode => execDecodeFor c s
  | .statusRd => execStatusRd s
  | .frame t h d o b => execFrameFor c t h d o b s
  | .frameRadioErp1 h d o b => execFrameRadioErp1For c h d o b s
  | .frameResponse h d o b => execFrameResponseFor c h d o b s

/-- One step for a configuration. -/
def stepFor (c : Config) (s : State) : Host.Outcome State Fault Refusal :=
  stepBy (execFor c) c s

/-- Running a list of commands for a configuration. -/
def execAllFor (c : Config) (is : List Instr) (s : State) : Host.Outcome State Fault Refusal :=
  execAllBy (execFor c) is s

/-- The machine right after reset for a configuration (spec/10_state.md R36): `CRC` is `CRC_INIT`. -/
def resetFor (c : Config) : State :=
  { State.reset with crc := c.crcInit }

/-- The machine for a configuration. -/
def coreFor (c : Config) : Host.Core where
  State := State
  Fault := Fault
  Refusal := Refusal
  step := stepFor c
  reset := resetFor c

end Sys2Proof.Machine
end

