-- ==== Sys2Proof/Safety.lean ====
section
/-!
DEFINITION. The terms claims use: the invariant of the machine, a run the spec calls valid, the end of a run, and what
an instruction is allowed to write.
-/

namespace Sys2Proof.Machine

/-- Every buffer is in canonical form and inside its size (spec/10_state.md R33), `FLEN` holds a legal value (R29) and
`STATUS[7:3]` is 0 (R30). -/
def State.wf (s : State) : Bool :=
  s.data.wf && s.opt.wf && s.fb.wf &&
  s.data.within dataSize && s.opt.within optSize && s.fb.within fbSize &&
  decide (s.flen.toNat ≤ fbSize) && decide (s.status.toNat < 8)

/-- The invariant. -/
abbrev State.Inv (s : State) : Prop := s.wf = true

/-- No command between the two states read a never-written byte: the run is valid in the sense of
spec/93_implementation_defined.md U1. -/
abbrev ValidRun (s t : State) : Prop := t.unwrittenReads = s.unwrittenReads

/-- The run has ended: the host has no more events (spec/70_reset_and_hazards.md R228). -/
abbrev State.Done (s : State) : Prop := s.script.length ≤ s.ip

/-- Every byte of the Packet the block holds has been written (spec/70_reset_and_hazards.md R213). -/
abbrev State.PacketWritten (s : State) : Prop :=
  s.written .data 0 s.dlen.toNat = true ∧ s.written .opt 0 s.olen.toNat = true

/-- Every byte of the chunk the block holds has been written (R213). -/
abbrev State.ChunkWritten (s : State) : Prop := s.written .fb 0 s.flen.toNat = true

/-- The three frame rows, whose meaning is a sequence of commands. -/
def isFrame : Instr → Bool
  | .frame _ _ _ _ _ => true
  | .frameRadioErp1 _ _ _ _ => true
  | .frameResponse _ _ _ _ => true
  | .nop => false
  | .crcClr => false
  | .crcUpd _ => false
  | .crcUpdfb _ => false
  | .crcRd => false
  | .pktSettype _ => false
  | .pktSetdlen _ => false
  | .pktSetolen _ => false
  | .pktGettype => false
  | .pktGetdlen => false
  | .pktGetolen => false
  | .dataWr _ _ => false
  | .dataRd _ => false
  | .optWr _ _ => false
  | .optRd _ => false
  | .fbWr _ _ => false
  | .fbRd _ => false
  | .fbSetlen _ => false
  | .fbGetlen => false
  | .encode => false
  | .decode => false
  | .statusRd => false

/-- A buffer holds `bs` from address 0 on and, above it, what it held before. -/
abbrev Memory.HoldsOver (new old : Memory) (bs : List Byte) : Prop :=
  ∀ a : Nat, new.read? a = if a < bs.length then bs[a]? else old.read? a

/-- Packet `p` stands in the Packet registers and buffers; buffer bytes beyond its lengths are as before. -/
abbrev PacketLoaded (p : Packet) (s t : State) : Prop :=
  t.ptype = p.ptype ∧ t.dlen.toNat = p.data.length ∧ t.olen.toNat = p.opt.length ∧
  t.data.HoldsOver s.data p.data ∧ t.opt.HoldsOver s.opt p.opt

/-- Chunk `bs` stands in the frame buffer; bytes beyond its length are as before. -/
abbrev ChunkLoaded (bs : List Byte) (s t : State) : Prop :=
  t.flen.toNat = bs.length ∧ t.fb.HoldsOver s.fb bs

/-- The must-be-zero bits of each assigned code: the column "must be 0" of spec/30_encoding.md R73, with `Z` the bits
26:25, `A` the bits 24:8, `A[16]` bit 24, `A[16:8]` the bits 24:16 and `V` the bits 7:0. -/
def mustBeZeroColumn : List (BitVec 5 × Word) :=
  [(0x00, 0x07FFFFFF), (0x01, 0x07FFFFFF), (0x02, 0x07FFFF00), (0x03, 0x060000FF), (0x04, 0x07FFFFFF),
   (0x08, 0x07FFFF00), (0x09, 0x070000FF), (0x0A, 0x07FFFF00), (0x0B, 0x07FFFFFF), (0x0C, 0x07FFFFFF),
   (0x0D, 0x07FFFFFF), (0x10, 0x07000000), (0x11, 0x070000FF), (0x12, 0x07FF0000), (0x13, 0x07FF00FF),
   (0x14, 0x06000000), (0x15, 0x060000FF), (0x16, 0x060000FF), (0x17, 0x07FFFFFF), (0x18, 0x07FFFFFF),
   (0x19, 0x07FFFFFF), (0x1A, 0x07FFFFFF)]

/-- The ten unassigned codes of R74 (a). -/
def unassignedOps : List (BitVec 5) :=
  [0x05, 0x06, 0x07, 0x0E, 0x0F, 0x1B, 0x1C, 0x1D, 0x1E, 0x1F]

/-- An illegal command word (R74): an unassigned `OP`, or an assigned one with a must-be-zero bit set. -/
abbrev IllegalWord (w : Word) : Prop :=
  opField w ∈ unassignedOps ∨ ∃ p ∈ mustBeZeroColumn, p.1 = opField w ∧ w &&& p.2 ≠ 0

/-- The commands that write `CRC` or read it (spec/10_state.md R22). -/
def usesCrc : Instr → Bool
  | .nop => false
  | .crcClr => true
  | .crcUpd _ => true
  | .crcUpdfb _ => true
  | .crcRd => true
  | .pktSettype _ => false
  | .pktSetdlen _ => false
  | .pktSetolen _ => false
  | .pktGettype => false
  | .pktGetdlen => false
  | .pktGetolen => false
  | .dataWr _ _ => false
  | .dataRd _ => false
  | .optWr _ _ => false
  | .optRd _ => false
  | .fbWr _ _ => false
  | .fbRd _ => false
  | .fbSetlen _ => false
  | .fbGetlen => false
  | .encode => false
  | .decode => false
  | .statusRd => false
  | .frame _ _ _ _ _ => false
  | .frameRadioErp1 _ _ _ _ => false
  | .frameResponse _ _ _ _ => false

/-- The instructions whose effect depends on `CRC_TABLE` or `CRC_INIT` (spec/00_scope.md R8). -/
def usesConfig : Instr → Bool
  | .nop => false
  | .crcClr => true
  | .crcUpd _ => true
  | .crcUpdfb _ => true
  | .crcRd => false
  | .pktSettype _ => false
  | .pktSetdlen _ => false
  | .pktSetolen _ => false
  | .pktGettype => false
  | .pktGetdlen => false
  | .pktGetolen => false
  | .dataWr _ _ => false
  | .dataRd _ => false
  | .optWr _ _ => false
  | .optRd _ => false
  | .fbWr _ _ => false
  | .fbRd _ => false
  | .fbSetlen _ => false
  | .fbGetlen => false
  | .encode => true
  | .decode => true
  | .statusRd => false
  | .frame _ _ _ _ _ => true
  | .frameRadioErp1 _ _ _ _ => true
  | .frameResponse _ _ _ _ => true

/-- The read commands, which write `DOUT` (spec/10_state.md R23); a frame row ends in `STATUS.RD`. -/
def writesDout : Instr → Bool
  | .nop => false
  | .crcClr => false
  | .crcUpd _ => false
  | .crcUpdfb _ => false
  | .crcRd => true
  | .pktSettype _ => false
  | .pktSetdlen _ => false
  | .pktSetolen _ => false
  | .pktGettype => true
  | .pktGetdlen => true
  | .pktGetolen => true
  | .dataWr _ _ => false
  | .dataRd _ => true
  | .optWr _ _ => false
  | .optRd _ => true
  | .fbWr _ _ => false
  | .fbRd _ => true
  | .fbSetlen _ => false
  | .fbGetlen => true
  | .encode => false
  | .decode => false
  | .statusRd => true
  | .frame _ _ _ _ _ => true
  | .frameRadioErp1 _ _ _ _ => true
  | .frameResponse _ _ _ _ => true

end Sys2Proof.Machine
end

