-- ==== Sys2Proof/Certificates/Slice0/Obligations.lean ====
section
/-!
DEFINITION. The statements for the provers. Each docstring cites the rule of spec/ it formalises. "Changed only in" is
written as an equation of states: `t` is `s` but for the components named.
-/

open Sys2Proof Sys2Proof.Machine

/-! ### Encodings -/

/-- R72, R73, R75 and R60: decoding what the encoder gives for a well-formed instruction gives it back, with every
operand at every value the encoding admits. -/
def Obligations.DecodeOfEncodeGivesInstruction : Prop :=
  ∀ i : Instr, i.WellFormed → decode (encode i) = .ok i

/-- R74, R75, D8: every word and every chunk has one meaning or none; what decodes is well formed and is exactly the
encoding of what it decodes to, so no bit is dropped. -/
def Obligations.EncodeOfDecodeGivesEvent : Prop :=
  ∀ (e : HostEvent) (i : Instr), decode e = .ok i → i.WellFormed ∧ encode i = e

/-- R74: a word is illegal exactly when its `OP` is one of the ten unassigned codes or a bit of the row's "must be 0"
column is 1; the range of a frame-buffer address is not part of decoding. -/
def Obligations.IllegalWordsAreThoseOfTheOpcodeMap : Prop :=
  (∀ w : Word, (∃ r, decodeCommand w = .error r) ↔ IllegalWord w) ∧
  decodeCommand 0xA1010500 = .ok (.fbWr 65797 0)

/-- Words written out in the spec (R73, spec/95_test_vectors.md) decode to the commands they stand for; and the document's
example `55 00 07 07 01` (R61), however its further 16 bytes read, is a radio telegram's frame with 7 bytes of data and 7 of
optional data. -/
def Obligations.SpecWordsDecode : Prop :=
  decodeCommand 0xA00007FF = .ok (.fbWr 7 0xFF) ∧ decodeCommand 0x80FFFFAB = .ok (.dataWr 65535 0xAB) ∧
  decodeCommand 0x9000FFCD = .ok (.optWr 255 0xCD) ∧ decodeCommand 0xB1010500 = .ok (.fbSetlen 65797) ∧
  decodeCommand 0x10000007 = .ok (.crcUpd 7) ∧ decodeCommand 0xC8000000 = .ok .decode ∧
  decodeCommand 0x49000000 = .error (.mustBeZero "PKT.SETDLEN") ∧ decodeCommand 0xF8000000 = .error (.unassignedOp 0x1F) ∧
  decodeFrame [0x55, 0x00, 0x01, 0x00, 0x05, 0x70, 0x03, 0x09] = .ok (.frame 0x05 0x70 [0x03] [] 0x09) ∧
  ∀ (h : Byte) (rest : List Byte), rest.length = 15 → decodeFrame (0x55 :: 0x00 :: 0x07 :: 0x07 :: 0x01 :: h :: rest) =
    .ok (.frameRadioErp1 h (slice rest 0 7) (slice rest 7 14) (byteAt rest 14))

/-! ### A step -/

/-- R24, R48 (log 6): when the host's next event decodes to an instruction, a step is that instruction's meaning on the state in
which the host has moved on by one. -/
def Obligations.StepRunsDecodedInstruction : Prop :=
  ∀ (s : State) (e : HostEvent) (i : Instr), s.nextEvent? = some e → decode e = .ok i →
    step s = exec i { s with ip := s.ip + 1 }

/-- R187, R74: a command word with an unassigned `OP` or a must-be-zero bit set raises `IllegalCommand`; nothing of the
block but `STATUS` changes. -/
def Obligations.IllegalWordRaisesIllegalCommand : Prop :=
  ∀ (s : State) (w : Word), s.nextEvent? = some (.command w) → IllegalWord w →
    step s = .next { s with ip := s.ip + 1, status := 7 }

/-- R210, R36, R212: the reset event. The host's list, its position and the model's own count (log 5) are not the
block's; that the event is an entry of the list and changes none of them but the position is the model's choice (log 19). -/
def Obligations.ResetEventResetsTheBlock : Prop :=
  ∀ s : State, s.nextEvent? = some .reset → ∃ t, step s = .next t ∧
    t.crc = config.crcInit ∧ t.dout = 0 ∧ t.ptype = 0 ∧ t.dlen = 0 ∧ t.olen = 0 ∧ t.flen = 0 ∧ t.status = 0 ∧
    (∀ (S : Space) (a : Nat), (t.buf S).read? a = none) ∧
    t.script = s.script ∧ t.ip = s.ip + 1 ∧ t.unwrittenReads = s.unwrittenReads

/-- R36: what reset leaves. The Packet is `(0x00, [], [])`, the chunk `[]`, and no buffer byte is written. -/
def Obligations.ResetLeavesTheSpecifiedState : Prop :=
  State.reset.crc = config.crcInit ∧ State.reset.dout = 0 ∧ State.reset.ptype = 0 ∧ State.reset.dlen = 0 ∧
  State.reset.olen = 0 ∧ State.reset.flen = 0 ∧ State.reset.status = 0 ∧
  (∀ (S : Space) (a : Nat), (State.reset.buf S).read? a = none) ∧
  State.reset.packet = ⟨0x00, [], []⟩ ∧ State.reset.chunk = []

/-- R24: an event moves the host's position on by exactly one whatever its outcome, no command branches, skips or
repeats, and no event stops the run (the model's choice: the host's list stands in the state, log 6; a chunk and the
reset event are entries of it that count one each, log 7, log 19). -/
def Obligations.EveryEventAdvancesThePositionByOne : Prop :=
  ∀ s : State, s.ip < s.script.length → ∃ t, step s = .next t ∧ t.ip = s.ip + 1 ∧ t.script = s.script

/-- R226, R228, R24: a finite list always runs to its end (the model's choice: the host's list stands in the state, log 6,
and holds chunks and reset events too, log 7, log 19). -/
def Obligations.FiniteProgramRunsToItsEnd : Prop :=
  ∀ s : State, s.ip ≤ s.script.length → ∃ t : State,
    Host.Core.run core (s.script.length - s.ip) s = .next t ∧ t.ip = s.script.length ∧ t.script = s.script

/-- The invariant holds at reset. -/
def Obligations.ResetStateIsWellFormed : Prop :=
  State.reset.Inv

/-- R29, R30, R33: every step keeps the invariant: the buffers in canonical form and inside their sizes, `FLEN` at most
65797, `STATUS[7:3]` zero. -/
def Obligations.StepKeepsTheInvariant : Prop :=
  ∀ s t : State, s.Inv → step s = .next t → t.Inv

/-! ### The CRC8 family -/

/-- R93 (a) to (c): the fold laws, for every table and start value. -/
def Obligations.Crc8FoldLaws : Prop :=
  ∀ c : Config, crc8 c [] = c.crcInit ∧
    (∀ (a : List Byte) (b : Byte), crc8 c (a ++ [b]) = c.crcTable (crc8 c a ^^^ b)) ∧
    (∀ a b : List Byte, crc8 c (a ++ b) = crcFold c (crc8 c a) b)

/-- R93 (d), (e), (h), under the default table and start value (log 1, log 2): zeros, the bijection, a sequence followed by its own checksum. -/
def Obligations.Crc8DefaultZeroAndBijectionLaws : Prop :=
  (∀ n : Nat, crc8 config (List.replicate n 0) = 0) ∧ (∀ a : List Byte, crc8 config (0 :: a) = crc8 config a) ∧
  (∀ x y : Byte, config.crcTable x = config.crcTable y → x = y) ∧
  (∀ (a : List Byte) (x y : Byte), x ≠ y → crc8 config (a ++ [x]) ≠ crc8 config (a ++ [y])) ∧
  (∀ a : List Byte, crc8 config (a ++ [crc8 config a]) = 0)

/-- R93 (f), (g), under the default table and start value (log 1, log 2): the table and the checksum are linear, and a sequence with exactly one 1 bit has a
checksum that is not 0. -/
def Obligations.Crc8DefaultLinearityLaws : Prop :=
  (∀ x y : Byte, config.crcTable (x ^^^ y) = config.crcTable x ^^^ config.crcTable y) ∧
  (∀ m e : List Byte, m.length = e.length →
    crc8 config (List.zipWith (fun x y => x ^^^ y) m e) = crc8 config m ^^^ crc8 config e) ∧
  (∀ i j k : Nat, k < 8 →
    crc8 config (List.replicate i 0 ++ (1#8 <<< k) :: List.replicate j 0) ≠ 0)

/-- R95, R96, R98: `CRC.CLR`, `CRC.UPD v` and `CRC.RD` complete in every state and change nothing else. -/
def Obligations.CrcRegisterCommandsComplete : Prop :=
  ∀ s : State, exec .crcClr s = .next { s with crc := config.crcInit } ∧
    (∀ v : Byte, exec (.crcUpd v) s = .next { s with crc := config.crcTable (s.crc ^^^ v) }) ∧
    exec .crcRd s = .next { s with dout := BitVec.ofNat 32 s.crc.toNat }

/-- R97: `CRC.UPDFB a` on a written byte of the buffer, at or beyond `FLEN` too, folds that byte; nothing else changes. -/
def Obligations.CrcUpdfbFoldsTheBufferByte : Prop :=
  ∀ (s : State) (a : Word17) (b : Byte), a.toNat < 65797 → s.fb.read? a.toNat = some b →
    exec (.crcUpdfb a) s = .next { s with crc := config.crcTable (s.crc ^^^ b) }

/-- R99, R8: the command sequences agree with the function: with bytes from the command or from the frame buffer in any
mixture, after `CRC.CLR` or continuing from the old `CRC`, for every table and start value. -/
def Obligations.CommandSequenceComputesCrc8 : Prop :=
  ∀ (s : State) (is : List Instr) (bs : List Byte),
    List.Forall₂ (fun i b => i = .crcUpd b ∨
      ∃ a : Word17, a.toNat < 65797 ∧ i = .crcUpdfb a ∧ s.fb.read? a.toNat = some b) is bs →
    execAll is s = .next { s with crc := crcFold config s.crc bs } ∧
    execAll (.crcClr :: is) s = .next { s with crc := crc8 config bs } ∧
    execAll (.crcClr :: (is ++ [.crcRd])) s =
      .next { s with crc := crc8 config bs, dout := BitVec.ofNat 32 (crc8 config bs).toNat } ∧
    ∀ c : Config, execAllFor c is s = .next { s with crc := crcFold c s.crc bs } ∧
      execAllFor c (.crcClr :: (is ++ [.crcRd])) s =
        .next { s with crc := crc8 c bs, dout := BitVec.ofNat 32 (crc8 c bs).toNat }

/-- R77: the pseudo-commands `CRC8 b0, ..., bk` and, on written bytes of the frame buffer, `CRC8FB a, n` leave the
checksum in `CRC` and, zero-extended, in `DOUT`. -/
def Obligations.Crc8PseudoCommandComputesCrc8 : Prop :=
  (∀ (s : State) (bs : List Byte), execAll (expandCrc8 bs) s =
    .next { s with crc := crc8 config bs, dout := BitVec.ofNat 32 (crc8 config bs).toNat }) ∧
  (∀ (s : State) (a : Nat) (bs : List Byte), a + bs.length ≤ 65797 →
    (∀ i < bs.length, s.fb.read? (a + i) = bs[i]?) →
    execAll (expandCrc8Fb a bs.length) s =
      .next { s with crc := crc8 config bs, dout := BitVec.ofNat 32 (crc8 config bs).toNat })

/-- R22: no other command writes `CRC` or reads it: with another `CRC` it does the same to everything else. -/
def Obligations.OnlyTheCrcCommandsTouchCrc : Prop :=
  ∀ (i : Instr) (s t : State) (v : Byte), usesCrc i = false → exec i s = .next t →
    t.crc = s.crc ∧ exec i { s with crc := v } = .next { t with crc := v }

/-! ### The functions of Layer F, for every table and start value -/

/-- R111: the length of a frame, its first byte and its length fields; two Packets never encode to the same frame. -/
def Obligations.EncodeLengthAndInjectivity : Prop :=
  ∀ (c : Config) (p : Packet), p.Bounded →
    (encodePacket c p).length = 7 + p.data.length + p.opt.length ∧
    7 ≤ (encodePacket c p).length ∧ (encodePacket c p).length ≤ 65797 ∧
    byteAt (encodePacket c p) 0 = 0x55 ∧
    unbe16 (byteAt (encodePacket c p) 1) (byteAt (encodePacket c p) 2) = p.data.length ∧
    (byteAt (encodePacket c p) 3).toNat = p.opt.length ∧
    ∀ q : Packet, q.Bounded → encodePacket c p = encodePacket c q → p = q

/-- R46, R60, R41, R67, R68: the frame, offset by offset. -/
def Obligations.EncodedFrameLayout : Prop :=
  ∀ (c : Config) (p : Packet), p.Bounded →
    (encodePacket c p)[0]? = some 0x55 ∧
    (encodePacket c p)[1]? = some (BitVec.ofNat 8 (p.data.length / 256)) ∧
    (encodePacket c p)[2]? = some (BitVec.ofNat 8 (p.data.length % 256)) ∧
    (encodePacket c p)[3]? = some (BitVec.ofNat 8 p.opt.length) ∧
    (encodePacket c p)[4]? = some p.ptype ∧
    (encodePacket c p)[5]? = some (crc8 c (slice (encodePacket c p) 1 5)) ∧
    (∀ i < p.data.length, (encodePacket c p)[6 + i]? = p.data[i]?) ∧
    (∀ j < p.opt.length, (encodePacket c p)[6 + p.data.length + j]? = p.opt[j]?) ∧
    (encodePacket c p)[6 + p.data.length + p.opt.length]? = some (crc8 c (p.data ++ p.opt)) ∧
    (encodePacket c p).length = 7 + p.data.length + p.opt.length

/-- R126 to R130: each failure of `decode` exactly when its check is the first that fails. -/
def Obligations.DecodeFailuresExactlyWhen : Prop :=
  ∀ (c : Config) (b : List Byte),
    (decodeChunk c b = .err .framingError ↔ b.length < 8) ∧
    (decodeChunk c b = .err .syncError ↔ 8 ≤ b.length ∧ byteAt b 0 ≠ 0x55) ∧
    (decodeChunk c b = .err .headerChecksumError ↔ 8 ≤ b.length ∧ byteAt b 0 = 0x55 ∧
      crc8 c [byteAt b 1, byteAt b 2, byteAt b 3, byteAt b 4] ≠ byteAt b 5) ∧
    (decodeChunk c b = .err .lengthError ↔ 8 ≤ b.length ∧ byteAt b 0 = 0x55 ∧
      crc8 c [byteAt b 1, byteAt b 2, byteAt b 3, byteAt b 4] = byteAt b 5 ∧
      b.length < 7 + (256 * (byteAt b 1).toNat + (byteAt b 2).toNat) + (byteAt b 3).toNat) ∧
    (decodeChunk c b = .err .lengthError → 2 ≤ chunkDlen b + chunkOlen b) ∧
    (decodeChunk c b = .err .bodyChecksumError ↔ 8 ≤ b.length ∧ byteAt b 0 = 0x55 ∧
      crc8 c [byteAt b 1, byteAt b 2, byteAt b 3, byteAt b 4] = byteAt b 5 ∧
      7 + chunkDlen b + chunkOlen b ≤ b.length ∧
      crc8 c (slice b 6 (6 + chunkDlen b + chunkOlen b)) ≠ byteAt b (6 + chunkDlen b + chunkOlen b)) ∧
    (chunkDlen b + chunkOlen b = 0 → crc8 c (slice b 6 (6 + chunkDlen b + chunkOlen b)) = c.crcInit)

/-- R131: success exactly when all five checks pass, and the Packet it gives, which is always within the bounds. -/
def Obligations.DecodeSuccessGivesThePacket : Prop :=
  ∀ (c : Config) (b : List Byte) (p : Packet), decodeChunk c b = .ok p ↔
    (8 ≤ b.length ∧ byteAt b 0 = 0x55 ∧ crc8 c (slice b 1 5) = byteAt b 5 ∧
     7 + chunkDlen b + chunkOlen b ≤ b.length ∧
     crc8 c (slice b 6 (6 + chunkDlen b + chunkOlen b)) = byteAt b (6 + chunkDlen b + chunkOlen b) ∧
     p.ptype = byteAt b 4 ∧ p.data = slice b 6 (6 + chunkDlen b) ∧
     p.opt = slice b (6 + chunkDlen b) (6 + chunkDlen b + chunkOlen b) ∧
     p.data.length = chunkDlen b ∧ p.opt.length = chunkOlen b ∧ p.Bounded)

/-- R132: surplus bytes change no result but `FramingError` and `LengthError`, and can change those two. -/
def Obligations.SurplusBytesAreIgnored : Prop :=
  (∀ (c : Config) (f x : List Byte),
    decodeChunk c f ≠ .err .framingError → decodeChunk c f ≠ .err .lengthError →
    decodeChunk c (f ++ x) = decodeChunk c f) ∧
  (∀ c : Config, ∃ f x : List Byte,
    decodeChunk c f = .err .framingError ∧ decodeChunk c (f ++ x) ≠ .err .framingError) ∧
  (∀ c : Config, ∃ f x : List Byte,
    decodeChunk c f = .err .lengthError ∧ decodeChunk c (f ++ x) ≠ .err .lengthError)

/-- R133: the indices `decode` reads. It reads none at or beyond the length, and what it does not read does not matter. -/
def Obligations.DecodeReadsOnlyTheStatedBytes : Prop :=
  ∀ (c : Config) (b : List Byte),
    decodeReach c b ≤ b.length ∧
    (decodeChunk c b = .err .framingError → decodeReach c b = 0) ∧
    (decodeChunk c b = .err .syncError → decodeReach c b = 1) ∧
    (decodeChunk c b = .err .headerChecksumError ∨ decodeChunk c b = .err .lengthError → decodeReach c b = 6) ∧
    (decodeChunk c b = .err .bodyChecksumError ∨ (∃ p, decodeChunk c b = .ok p) →
      decodeReach c b = 6 + chunkDlen b + chunkOlen b + 1) ∧
    ∀ b' : List Byte, b'.length = b.length → b'.take (decodeReach c b) = b.take (decodeReach c b) →
      decodeChunk c b' = decodeChunk c b

/-- R136: a chunk longer than the frame buffer decodes as its first 65797 bytes do. -/
def Obligations.OverlongChunkDecodesAsItsPrefix : Prop :=
  ∀ (c : Config) (b : List Byte), 65797 < b.length → decodeChunk c b = decodeChunk c (b.take 65797)

/-- R137: the round trip of every Packet with at least one byte, the failure of the empty ones, and their success once a
surplus byte follows. -/
def Obligations.RoundTripOfPackets : Prop :=
  ∀ (c : Config) (p : Packet), p.Bounded →
    (1 ≤ p.data.length + p.opt.length → decodeChunk c (encodePacket c p) = .ok p) ∧
    (p.data.length + p.opt.length = 0 → decodeChunk c (encodePacket c p) = .err .framingError) ∧
    (∀ x : List Byte, x ≠ [] → decodeChunk c (encodePacket c p ++ x) = .ok p)

/-- R138, under the default table and start value (log 1, log 2): flipping any single bit of a frame of at least 8 bytes makes `decode` fail, with the error
the place of the bit determines. -/
def Obligations.SingleBitCorruptionIsDetected : Prop :=
  ∀ (p : Packet) (i k : Nat), p.Bounded → 8 ≤ (encodePacket config p).length →
    i < (encodePacket config p).length → k < 8 →
    decodeChunk config ((encodePacket config p).set i (byteAt (encodePacket config p) i ^^^ (1#8 <<< k))) =
      .err (if i = 0 then .syncError else if i ≤ 5 then .headerChecksumError else .bodyChecksumError)

/-! ### `ENCODE` and `DECODE` -/

/-- R113, R114: `ENCODE` completes in every state; the frame of the Packet stands in the frame buffer, its bytes at and
above the new `FLEN` are unchanged, and nothing else but `FLEN`, `STATUS` and the model's count (log 4) changes. -/
def Obligations.EncodeBuildsTheFrame : Prop :=
  ∀ s : State, ∃ t, exec .encode s = .next t ∧
    (encodePacket config s.packet).length = 7 + s.dlen.toNat + s.olen.toNat ∧
    t.flen.toNat = 7 + s.dlen.toNat + s.olen.toNat ∧ t.status = 0 ∧
    t.fb.HoldsOver s.fb (encodePacket config s.packet) ∧
    t = { s with fb := t.fb, flen := t.flen, status := t.status, unwrittenReads := t.unwrittenReads } ∧
    (s.PacketWritten → ValidRun s t)

/-- R114 (g): `ENCODE` twice in a row gives the same buffer, `FLEN` and `STATUS` as once, when every byte of the Packet
has been written. -/
def Obligations.EncodeTwiceIsEncodeOnce : Prop :=
  ∀ s t : State, s.PacketWritten → exec .encode s = .next t →
    ∃ u, exec .encode t = .next u ∧ (∀ a, u.fb.read? a = t.fb.read? a) ∧ u = { t with fb := u.fb }

/-- R134: a `DECODE` whose chunk decodes loads the Packet; buffer bytes beyond the new lengths, `FB`, `FLEN`, `CRC` and
`DOUT` are unchanged. -/
def Obligations.DecodeLoadsThePacket : Prop :=
  ∀ (s : State) (p : Packet), decodeChunk config s.chunk = .ok p → ∃ t, exec .decode s = .next t ∧
    t.status = 0 ∧ PacketLoaded p s t ∧
    t = { s with ptype := t.ptype, dlen := t.dlen, olen := t.olen, data := t.data, opt := t.opt,
                 status := t.status, unwrittenReads := t.unwrittenReads } ∧
    (s.ChunkWritten → ValidRun s t)

/-- R134, R135: a `DECODE` whose chunk does not decode writes its code to `STATUS` and nothing else (but the model's
count, log 4). -/
def Obligations.FailedDecodeChangesOnlyStatus : Prop :=
  ∀ (s : State) (e : DecodeError), decodeChunk config s.chunk = .err e → ∃ t, exec .decode s = .next t ∧
    t.status = (match e with
      | .framingError => 1 | .syncError => 2 | .headerChecksumError => 3 | .lengthError => 4 | .bodyChecksumError => 5) ∧
    t = { s with status := t.status, unwrittenReads := t.unwrittenReads } ∧ (s.ChunkWritten → ValidRun s t)

/-- R182 to R186, R134, R181: `DECODE` raises each of its five exceptions exactly when `decode` of the chunk returns that
error, and leaves code 0 exactly when it succeeds. -/
def Obligations.DecodeRaisesExactlyTheFiveErrors : Prop :=
  ∀ s t : State, exec .decode s = .next t →
    (t.status = 1 ↔ decodeChunk config s.chunk = .err .framingError) ∧
    (t.status = 2 ↔ decodeChunk config s.chunk = .err .syncError) ∧
    (t.status = 3 ↔ decodeChunk config s.chunk = .err .headerChecksumError) ∧
    (t.status = 4 ↔ decodeChunk config s.chunk = .err .lengthError) ∧
    (t.status = 5 ↔ decodeChunk config s.chunk = .err .bodyChecksumError) ∧
    (t.status = 0 ↔ ∃ p, decodeChunk config s.chunk = .ok p) ∧
    (t.status = 1 ↔ s.chunk.length < 8) ∧
    (t.status = 2 ↔ 8 ≤ s.chunk.length ∧ byteAt s.chunk 0 ≠ 0x55)

/-- R137 in the block: `ENCODE` followed by `DECODE` of a Packet with at least one byte, all of them written, ends with
`STATUS = 0`, the Packet registers and buffers unchanged, and the frame in `FB` with its length in `FLEN`. -/
def Obligations.EncodeThenDecodeRestoresThePacket : Prop :=
  ∀ s : State, 1 ≤ s.dlen.toNat + s.olen.toNat → s.PacketWritten →
    ∃ t, execAll [.encode, .decode] s = .next t ∧ t.status = 0 ∧
      (∀ (S : Space) (a : Nat), S ≠ .fb → (t.buf S).read? a = (s.buf S).read? a) ∧
      t.fb.HoldsOver s.fb (encodePacket config s.packet) ∧ t.flen.toNat = 7 + s.dlen.toNat + s.olen.toNat ∧
      t = { s with data := t.data, opt := t.opt, fb := t.fb, flen := t.flen, status := t.status }

/-- R137, R217 in the block: with `DLEN = OLEN = 0`, `ENCODE` followed by `DECODE` ends with `STATUS = 1`, and the
`DECODE` changes nothing else. -/
def Obligations.EmptyPacketDoesNotSurviveTheRoundTrip : Prop :=
  ∀ s : State, s.dlen = 0 → s.olen = 0 → ∃ u, exec .encode s = .next u ∧ u.flen = 7 ∧
    exec .decode u = .next { u with status := 1 }

/-! ### The access family -/

/-- R150, R49: `NOP` leaves every state as it is. -/
def Obligations.NopChangesNothing : Prop :=
  ∀ s : State, exec .nop s = .next s

/-- R151 to R153, R223: the Packet registers take their operands, every value of them; no byte and nothing else changes. -/
def Obligations.PacketRegisterWritesComplete : Prop :=
  ∀ s : State, (∀ v : Byte, exec (.pktSettype v) s = .next { s with ptype := v }) ∧
    (∀ n : Word16, exec (.pktSetdlen n) s = .next { s with dlen := n }) ∧
    (∀ v : Byte, exec (.pktSetolen v) s = .next { s with olen := v })

/-- R154 to R156, R42: the Packet registers read zero-extended into `DOUT`; nothing else changes. -/
def Obligations.PacketRegisterReadsComplete : Prop :=
  ∀ s : State, exec .pktGettype s = .next { s with dout := BitVec.ofNat 32 s.ptype.toNat } ∧
    exec .pktGetdlen s = .next { s with dout := BitVec.ofNat 32 s.dlen.toNat } ∧
    exec .pktGetolen s = .next { s with dout := BitVec.ofNat 32 s.olen.toNat }

/-- R157, R159, R161, R223: a byte store complete in every state (for `FB.WR`: at every address below 65797) writes one
byte of its own buffer; every other byte of it and every other component is unchanged, the lengths included. -/
def Obligations.ByteStoresWriteOneByte : Prop :=
  ∀ (s : State) (v : Byte),
    (∀ a : Word16, ∃ t, exec (.dataWr a v) s = .next t ∧ t = { s with data := t.data } ∧
      ∀ x : Nat, t.data.read? x = if x = a.toNat then some v else s.data.read? x) ∧
    (∀ a : Byte, ∃ t, exec (.optWr a v) s = .next t ∧ t = { s with opt := t.opt } ∧
      ∀ x : Nat, t.opt.read? x = if x = a.toNat then some v else s.opt.read? x) ∧
    (∀ a : Word17, a.toNat < 65797 → ∃ t, exec (.fbWr a v) s = .next t ∧ t = { s with fb := t.fb } ∧
      ∀ x : Nat, t.fb.read? x = if x = a.toNat then some v else s.fb.read? x)

/-- R77: the pseudo-command `PKT.LOAD` completes in every state and leaves the Packet in its registers and buffers;
nothing else changes. -/
def Obligations.PacketPseudoCommandLoadsThePacket : Prop :=
  ∀ (s : State) (p : Packet), p.Bounded → ∃ t, execAll (expandPktLoad p) s = .next t ∧ PacketLoaded p s t ∧
    t = { s with ptype := t.ptype, dlen := t.dlen, olen := t.olen, data := t.data, opt := t.opt }

/-- R158, R160, R162, R42: a byte load of a written byte gives it zero-extended in `DOUT`; nothing else changes. -/
def Obligations.ByteLoadsReadWrittenBytes : Prop :=
  ∀ (s : State) (v : Byte),
    (∀ a : Word16, s.data.read? a.toNat = some v →
      exec (.dataRd a) s = .next { s with dout := BitVec.ofNat 32 v.toNat }) ∧
    (∀ a : Byte, s.opt.read? a.toNat = some v →
      exec (.optRd a) s = .next { s with dout := BitVec.ofNat 32 v.toNat }) ∧
    (∀ a : Word17, a.toNat < 65797 → s.fb.read? a.toNat = some v →
      exec (.fbRd a) s = .next { s with dout := BitVec.ofNat 32 v.toNat })

/-- R47: a load returns the value of the latest store to its address in its buffer, and a store to another address, or to
another buffer, does not change what it returns. -/
def Obligations.LoadReturnsTheLatestStore : Prop :=
  ∀ (s t : State) (v : Byte),
    (∀ a : Word16, exec (.dataWr a v) s = .next t → exec (.dataRd a) t = .next { t with dout := BitVec.ofNat 32 v.toNat }) ∧
    (∀ a : Byte, exec (.optWr a v) s = .next t → exec (.optRd a) t = .next { t with dout := BitVec.ofNat 32 v.toNat }) ∧
    (∀ a : Word17, a.toNat < 65797 → exec (.fbWr a v) s = .next t →
      exec (.fbRd a) t = .next { t with dout := BitVec.ofNat 32 v.toNat }) ∧
    (∀ (i : Instr) (S : Space) (x : Nat), exec i s = .next t → i ≠ .encode → i ≠ .decode → isFrame i = false →
      (∀ a w, i = .dataWr a w → S = .data → x ≠ a.toNat) → (∀ a w, i = .optWr a w → S = .opt → x ≠ a.toNat) →
      (∀ a w, i = .fbWr a w → S = .fb → x ≠ a.toNat) → (t.buf S).read? x = (s.buf S).read? x)

/-- The model's choice for U1 (log 4): a load of a never-written byte, or its fold into `CRC`, raises nothing and
completes with some byte, about which nothing is said; the model's count grows by one and nothing else changes. -/
def Obligations.ReadsOfUnwrittenBytesComplete : Prop :=
  ∀ s : State,
    (∀ a : Word16, s.data.read? a.toNat = none → ∃ v : Byte, exec (.dataRd a) s =
      .next { s with dout := BitVec.ofNat 32 v.toNat, unwrittenReads := s.unwrittenReads + 1 }) ∧
    (∀ a : Byte, s.opt.read? a.toNat = none → ∃ v : Byte, exec (.optRd a) s =
      .next { s with dout := BitVec.ofNat 32 v.toNat, unwrittenReads := s.unwrittenReads + 1 }) ∧
    (∀ a : Word17, a.toNat < 65797 → s.fb.read? a.toNat = none → ∃ v : Byte, exec (.fbRd a) s =
      .next { s with dout := BitVec.ofNat 32 v.toNat, unwrittenReads := s.unwrittenReads + 1 }) ∧
    (∀ a : Word17, a.toNat < 65797 → s.fb.read? a.toNat = none → ∃ v : Byte, exec (.crcUpdfb a) s =
      .next { s with crc := config.crcTable (s.crc ^^^ v), unwrittenReads := s.unwrittenReads + 1 })

/-- R163, R164, R223: `FB.SETLEN n` for every legal length, 65797 included, and `FB.GETLEN`; no byte changes. -/
def Obligations.ChunkLengthCommandsComplete : Prop :=
  ∀ s : State, (∀ n : Word17, n.toNat ≤ 65797 → exec (.fbSetlen n) s = .next { s with flen := n }) ∧
    exec .fbGetlen s = .next { s with dout := BitVec.ofNat 32 s.flen.toNat }

/-- R165, R30: `STATUS.RD` completes in every state; bits 7:3 read as 0 in every state (log 12), the register is not
cleared, and in a state of the invariant the whole of it is what is read. -/
def Obligations.StatusReadCompletes : Prop :=
  ∀ s : State, ∃ t, exec .statusRd s = .next t ∧ t.dout.toNat = s.status.toNat % 8 ∧ t = { s with dout := t.dout } ∧
    (s.Inv → t.dout.toNat = s.status.toNat)

/-! ### Exceptions -/

/-- R188: `AddressError` is raised by exactly these four commands on exactly these operands, with nothing else changed,
and no other command can raise it. -/
def Obligations.AddressErrorExactlyWhen : Prop :=
  (∀ (s : State) (a : Word17) (v : Byte), 65797 ≤ a.toNat →
    exec (.fbWr a v) s = .next { s with status := 6 } ∧ exec (.fbRd a) s = .next { s with status := 6 } ∧
    exec (.crcUpdfb a) s = .next { s with status := 6 }) ∧
  (∀ (s : State) (n : Word17), 65797 < n.toNat → exec (.fbSetlen n) s = .next { s with status := 6 }) ∧
  (∀ (i : Instr) (s t : State), exec i s = .next t → t.status = 6 → s.status ≠ 6 →
    (∃ a v, i = .fbWr a v ∧ 65797 ≤ a.toNat) ∨ (∃ a, i = .fbRd a ∧ 65797 ≤ a.toNat) ∨
    (∃ a, i = .crcUpdfb a ∧ 65797 ≤ a.toNat) ∨ (∃ n, i = .fbSetlen n ∧ 65797 < n.toNat))

/-- R180: exceptions are precise: a command (not a frame row, which is several) that leaves a new non-zero code in
`STATUS` changes nothing else (but the model's count, log 4). -/
def Obligations.ExceptionsArePrecise : Prop :=
  ∀ (i : Instr) (s t : State), isFrame i = false → exec i s = .next t → t.status ≠ s.status → t.status ≠ 0 →
    t = { s with status := t.status, unwrittenReads := t.unwrittenReads }

/-- R30, R219: which commands write `STATUS`. -/
def Obligations.StatusIsWrittenOnlyByItsWriters : Prop :=
  (∀ (i : Instr) (s t : State), i ≠ .encode → i ≠ .decode → isFrame i = false → exec i s = .next t →
    t.status = s.status ∨ t.status = 6) ∧
  (∀ s t : State, exec .encode s = .next t → t.status = 0) ∧
  (∀ s t : State, exec .decode s = .next t → t.status.toNat ≤ 5)

/-- R25: no command but `STATUS.RD` depends on `STATUS`: with another `STATUS` it does the same to everything else, and
what it leaves in `STATUS` is the same too, or is what stood there. -/
def Obligations.NothingButStatusReadDependsOnStatus : Prop :=
  ∀ (i : Instr) (s : State) (v : Byte), i ≠ .statusRd → ∃ t u, exec i s = .next t ∧
    exec i { s with status := v } = .next u ∧ u = { t with status := u.status } ∧
    (u.status = t.status ∨ (t.status = s.status ∧ u.status = v))

/-- R23: only the read commands write `DOUT`, and no command reads it: with another `DOUT` a command does the same to
everything else, and what it leaves in `DOUT` is the same too (a read), or is what stood there. -/
def Obligations.DoutIsWrittenByReadsAndNeverRead : Prop :=
  ∀ (i : Instr) (s : State) (v : Word), ∃ t u, exec i s = .next t ∧ exec i { s with dout := v } = .next u ∧
    u = { t with dout := u.dout } ∧
    ((writesDout i = true ∧ u.dout = t.dout) ∨ (t.dout = s.dout ∧ u.dout = v)) ∧
    (writesDout i = false → t.dout = s.dout)

/-- R26 to R29, R33: which instructions can change each Packet register, `FLEN` and each buffer; none changes the host's
list or its position. -/
def Obligations.RegistersAndBuffersChangeOnlyByTheirWriters : Prop :=
  ∀ (i : Instr) (s t : State), exec i s = .next t →
    (t.ptype ≠ s.ptype → (∃ v, i = .pktSettype v) ∨ i = .decode ∨ isFrame i = true) ∧
    (t.dlen ≠ s.dlen → (∃ n, i = .pktSetdlen n) ∨ i = .decode ∨ isFrame i = true) ∧
    (t.olen ≠ s.olen → (∃ v, i = .pktSetolen v) ∨ i = .decode ∨ isFrame i = true) ∧
    (t.flen ≠ s.flen → (∃ n, i = .fbSetlen n) ∨ i = .encode ∨ isFrame i = true) ∧
    (t.data ≠ s.data → (∃ a v, i = .dataWr a v) ∨ i = .decode ∨ isFrame i = true) ∧
    (t.opt ≠ s.opt → (∃ a v, i = .optWr a v) ∨ i = .decode ∨ isFrame i = true) ∧
    (t.fb ≠ s.fb → (∃ a v, i = .fbWr a v) ∨ i = .encode ∨ isFrame i = true) ∧
    t.script = s.script ∧ t.ip = s.ip

/-- R226: every instruction finishes, in every state. -/
def Obligations.EveryInstructionCompletes : Prop :=
  ∀ (i : Instr) (s : State), ∃ t, exec i s = .next t

/-- U1 (log 4): when every byte of the three buffers that the block can hold has been written, no command makes the run
invalid; and no command makes an invalid run valid again. -/
def Obligations.RunsOverWrittenBytesAreValid : Prop :=
  ∀ (i : Instr) (s t : State), exec i s = .next t →
    s.unwrittenReads ≤ t.unwrittenReads ∧
    (s.Inv → (∀ S : Space, s.written S 0 (bufSize S) = true) → ValidRun s t)

/-! ### The frame rows -/

/-- R227, R77, R136: a chunk the host hands over, a frame or not, does what the commands `FB.WR` for each of its first
65797 bytes, `FB.SETLEN`, `DECODE`, `STATUS.RD` do one after another (the model's reading of the frame rows, log 7). -/
def Obligations.HandedOverChunkIsTheCommandSequence : Prop :=
  ∀ (s : State) (bs : List Byte), s.nextEvent? = some (.chunk bs) →
    step s = execAll (expandFbLoad (bs.take 65797) ++ [.decode, .statusRd]) { s with ip := s.ip + 1 }

/-- R227, R65, R66 (log 7, log 8): each frame row, on the frame of a Packet with at least one byte, completes in every
state: the chunk stands in `FB`, the Packet in its registers and buffers, `STATUS` and `DOUT` are 0, and nothing else
changes. -/
def Obligations.FrameRowsLoadThePacket : Prop :=
  ∀ (s : State) (p : Packet), p.Bounded → 1 ≤ p.data.length + p.opt.length →
    ∀ i : Instr,
      (i = .frame p.ptype (crc8 config (packetHeader p)) p.data p.opt (crc8 config (p.data ++ p.opt)) ∨
       (p.ptype = 0x01 ∧ i = .frameRadioErp1 (crc8 config (packetHeader p)) p.data p.opt (crc8 config (p.data ++ p.opt))) ∨
       (p.ptype = 0x02 ∧ i = .frameResponse (crc8 config (packetHeader p)) p.data p.opt (crc8 config (p.data ++ p.opt)))) →
      ∃ t, exec i s = .next t ∧ ChunkLoaded (encodePacket config p) s t ∧ PacketLoaded p s t ∧
        t.status = 0 ∧ t.dout = 0 ∧ t.crc = s.crc ∧ t.script = s.script ∧ t.ip = s.ip ∧ ValidRun s t

/-- R227, R135 (log 7, log 8): each frame row on a frame `decode` rejects, a corrupted or an empty one, completes with
the error's code in `STATUS` and `DOUT`; the chunk stands in `FB` and the Packet is not disturbed. -/
def Obligations.RejectedFrameRowsKeepThePacket : Prop :=
  ∀ (s : State) (t₀ h : Byte) (d o : List Byte) (b : Byte) (e : DecodeError), lengthsFit d o = true →
    decodeChunk config (frameBytes t₀ h d o b) = .err e →
    ∀ i : Instr, (i = .frame t₀ h d o b ∨ (t₀ = 0x01 ∧ i = .frameRadioErp1 h d o b) ∨
        (t₀ = 0x02 ∧ i = .frameResponse h d o b)) →
      ∃ t, exec i s = .next t ∧ ChunkLoaded (frameBytes t₀ h d o b) s t ∧
        t.status = e.toCode.code.setWidth 8 ∧ t.dout = e.toCode.code.setWidth 32 ∧
        t = { s with fb := t.fb, flen := t.flen, status := t.status, dout := t.dout }

/-! ### Every table and start value -/

/-- R8, R20: `exec`, `step`, `execAll` and the reset state are the machine of every configuration at its defaults. -/
def Obligations.DefaultMachineIsTheParameterAtItsDefault : Prop :=
  (∀ (i : Instr) (s : State), exec i s = execFor config i s) ∧ (∀ s : State, step s = stepFor config s) ∧
  (∀ (is : List Instr) (s : State), execAll is s = execAllFor config is s) ∧ State.reset = resetFor config

/-- R8: what the instructions that use the table or the start value do, for every choice of the two: the checksum
commands, `ENCODE`, `DECODE`, and the frame rows, each of which is the commands of R227 (log 7); and no other instruction
depends on the choice. -/
def Obligations.InstructionsForEveryTable : Prop :=
  ∀ (c : Config) (s : State),
    execFor c .crcClr s = .next { s with crc := c.crcInit } ∧
    (∀ v : Byte, execFor c (.crcUpd v) s = .next { s with crc := c.crcTable (s.crc ^^^ v) }) ∧
    (∀ (a : Word17) (b : Byte), a.toNat < 65797 → s.fb.read? a.toNat = some b →
      execFor c (.crcUpdfb a) s = .next { s with crc := c.crcTable (s.crc ^^^ b) }) ∧
    (∀ a : Word17, 65797 ≤ a.toNat → execFor c (.crcUpdfb a) s = .next { s with status := 6 }) ∧
    (∃ t, execFor c .encode s = .next t ∧ t.flen.toNat = 7 + s.dlen.toNat + s.olen.toNat ∧ t.status = 0 ∧
      t.fb.HoldsOver s.fb (encodePacket c s.packet) ∧
      t = { s with fb := t.fb, flen := t.flen, status := t.status, unwrittenReads := t.unwrittenReads }) ∧
    (∀ p : Packet, decodeChunk c s.chunk = .ok p → ∃ t, execFor c .decode s = .next t ∧ t.status = 0 ∧
      PacketLoaded p s t ∧
      t = { s with ptype := t.ptype, dlen := t.dlen, olen := t.olen, data := t.data, opt := t.opt,
                   status := t.status, unwrittenReads := t.unwrittenReads }) ∧
    (∀ e : DecodeError, decodeChunk c s.chunk = .err e → ∃ t, execFor c .decode s = .next t ∧
      t.status = e.toCode.code.setWidth 8 ∧ t = { s with status := t.status, unwrittenReads := t.unwrittenReads }) ∧
    (∀ (y h : Byte) (d o : List Byte) (b : Byte), lengthsFit d o = true →
      execFor c (.frame y h d o b) s = execAllFor c (expandFbLoad (frameBytes y h d o b) ++ [.decode, .statusRd]) s ∧
      execFor c (.frameRadioErp1 h d o b) s =
        execAllFor c (expandFbLoad (frameBytes 0x01 h d o b) ++ [.decode, .statusRd]) s ∧
      execFor c (.frameResponse h d o b) s =
        execAllFor c (expandFbLoad (frameBytes 0x02 h d o b) ++ [.decode, .statusRd]) s) ∧
    (∀ (c' : Config) (i : Instr), usesConfig i = false → execFor c' i s = execFor c i s)

/-- R8, R29, R30, R33, R226: for every table and start value a step completes, and it keeps the invariant, which holds at
the reset state. -/
def Obligations.StepForEveryTableKeepsTheInvariant : Prop :=
  ∀ c : Config, (resetFor c).Inv ∧ ∀ s : State, ∃ t, stepFor c s = .next t ∧ (s.Inv → t.Inv)
end

