-- ==== Sys2Proof/Laws/Codec.lean ====
section
/-!
SUPPORT. The checksum as a fold, slices and single bytes of a sequence, and the two big-endian bytes: the facts the
functions of Layer F are reasoned about with.
-/

namespace Sys2Proof.Machine

/-! ### The fold -/

@[simp] theorem crcFold_nil (c : Config) (acc : Byte) : crcFold c acc [] = acc := rfl

@[simp] theorem crcFold_cons (c : Config) (acc b : Byte) (bs : List Byte) :
    crcFold c acc (b :: bs) = crcFold c (c.crcTable (acc ^^^ b)) bs := rfl

theorem crcFold_append (c : Config) (acc : Byte) (a b : List Byte) :
    crcFold c acc (a ++ b) = crcFold c (crcFold c acc a) b := by
  induction a generalizing acc with
  | nil => rfl
  | cons x a ih => exact ih _

/-- With an injective table two running values that differ stay different over the same bytes. -/
theorem crcFold_injective (c : Config) (ht : ∀ x y, c.crcTable x = c.crcTable y → x = y) (bs : List Byte)
    {x y : Byte} (h : crcFold c x bs = crcFold c y bs) : x = y := by
  induction bs generalizing x y with
  | nil => exact h
  | cons b bs ih =>
    have h₁ := ht _ _ (ih h)
    have h₂ : (x ^^^ b) ^^^ b = (y ^^^ b) ^^^ b := by rw [h₁]
    simpa [BitVec.xor_assoc] using h₂

/-! ### Bytes and slices -/

@[simp] theorem byteAt_cons_zero (x : Byte) (b : List Byte) : byteAt (x :: b) 0 = x := rfl

@[simp] theorem byteAt_cons_succ (x : Byte) (b : List Byte) (i : Nat) : byteAt (x :: b) (i + 1) = byteAt b i := rfl

theorem byteAt_eq_getElem {b : List Byte} {i : Nat} (h : i < b.length) : byteAt b i = b[i] := by
  simp [byteAt, h]

theorem byteAt_append_left {a : List Byte} (b : List Byte) {i : Nat} (h : i < a.length) :
    byteAt (a ++ b) i = byteAt a i := by
  simp [byteAt, List.getElem?_append_left h]

theorem byteAt_append_right (a b : List Byte) (i : Nat) : byteAt (a ++ b) (a.length + i) = byteAt b i := by
  simp only [byteAt, List.getD_eq_getElem?_getD]
  rw [List.getElem?_append_right (by omega), Nat.add_sub_cancel_left]

theorem byteAt_take {b : List Byte} {i n : Nat} (h : i < n) : byteAt (b.take n) i = byteAt b i := by
  simp [byteAt, List.getElem?_take_of_lt h]

theorem slice_take {b : List Byte} {i j n : Nat} (h : j ≤ n) : slice (b.take n) i j = slice b i j := by
  simp only [slice, List.drop_take, List.take_take]
  congr 1
  omega

theorem length_slice {b : List Byte} {i j : Nat} (h : j ≤ b.length) : (slice b i j).length = j - i := by
  simp [slice]; omega

theorem slice_append_left {a : List Byte} (b : List Byte) {i j : Nat} (h : j ≤ a.length) :
    slice (a ++ b) i j = slice a i j := by
  rw [← slice_take (b := a ++ b) h]
  simp

/-- A slice that starts where a known part ends. -/
theorem slice_of_append (a b : List Byte) {i j : Nat} (hi : i = a.length) : slice (a ++ b) i j = b.take (j - i) := by
  subst hi; simp [slice]

theorem slice_one_five {x0 x1 x2 x3 x4 : Byte} {b : List Byte} :
    slice (x0 :: x1 :: x2 :: x3 :: x4 :: b) 1 5 = [x1, x2, x3, x4] := by
  simp [slice]

/-! ### `decode` -/

/-- Everything `decode` can answer, each answer with the checks that lead to it (R125). -/
theorem decodeChunk_cases (c : Config) (b : List Byte) :
    (b.length < 8 ∧ decodeChunk c b = .err .framingError) ∨
    (8 ≤ b.length ∧ byteAt b 0 ≠ sync ∧ decodeChunk c b = .err .syncError) ∨
    (8 ≤ b.length ∧ byteAt b 0 = sync ∧ crc8 c (slice b 1 5) ≠ byteAt b 5 ∧
      decodeChunk c b = .err .headerChecksumError) ∨
    (8 ≤ b.length ∧ byteAt b 0 = sync ∧ crc8 c (slice b 1 5) = byteAt b 5 ∧
      b.length < 7 + chunkDlen b + chunkOlen b ∧ decodeChunk c b = .err .lengthError) ∨
    (8 ≤ b.length ∧ byteAt b 0 = sync ∧ crc8 c (slice b 1 5) = byteAt b 5 ∧
      7 + chunkDlen b + chunkOlen b ≤ b.length ∧
      crc8 c (slice b 6 (bodyEnd b)) ≠ byteAt b (bodyEnd b) ∧ decodeChunk c b = .err .bodyChecksumError) ∨
    (8 ≤ b.length ∧ byteAt b 0 = sync ∧ crc8 c (slice b 1 5) = byteAt b 5 ∧
      7 + chunkDlen b + chunkOlen b ≤ b.length ∧ crc8 c (slice b 6 (bodyEnd b)) = byteAt b (bodyEnd b) ∧
      decodeChunk c b =
        .ok ⟨byteAt b 4, slice b 6 (6 + chunkDlen b), slice b (6 + chunkDlen b) (bodyEnd b)⟩) := by
  by_cases h₁ : b.length < 8
  · exact .inl ⟨h₁, if_pos h₁⟩
  have e₁ : ¬ b.length < minChunk := h₁
  have h₁ : 8 ≤ b.length := by omega
  by_cases h₂ : byteAt b 0 = sync
  swap
  · exact .inr (.inl ⟨h₁, h₂, by rw [decodeChunk, if_neg e₁, if_pos h₂]⟩)
  by_cases h₃ : crc8 c (slice b 1 5) = byteAt b 5
  swap
  · exact .inr (.inr (.inl ⟨h₁, h₂, h₃, by rw [decodeChunk, if_neg e₁, if_neg (not_not.2 h₂), if_pos h₃]⟩))
  by_cases h₄ : b.length < overhead + chunkDlen b + chunkOlen b
  · exact .inr (.inr (.inr (.inl ⟨h₁, h₂, h₃, h₄,
      by rw [decodeChunk, if_neg e₁, if_neg (not_not.2 h₂), if_neg (not_not.2 h₃), if_pos h₄]⟩)))
  have e₄ : 7 + chunkDlen b + chunkOlen b ≤ b.length := Nat.le_of_not_lt h₄
  by_cases h₅ : crc8 c (slice b 6 (bodyEnd b)) = byteAt b (bodyEnd b)
  swap
  · exact .inr (.inr (.inr (.inr (.inl ⟨h₁, h₂, h₃, e₄, h₅,
      by rw [decodeChunk, if_neg e₁, if_neg (not_not.2 h₂), if_neg (not_not.2 h₃), if_neg h₄, if_pos h₅]⟩))))
  exact .inr (.inr (.inr (.inr (.inr ⟨h₁, h₂, h₃, e₄, h₅,
    by rw [decodeChunk, if_neg e₁, if_neg (not_not.2 h₂), if_neg (not_not.2 h₃), if_neg h₄, if_neg (not_not.2 h₅)]⟩))))

theorem bodyEnd_le {b : List Byte} (h : 7 + chunkDlen b + chunkOlen b ≤ b.length) : bodyEnd b + 1 ≤ b.length := by
  simp only [bodyEnd]; omega

theorem decodeReach_le (c : Config) (b : List Byte) : decodeReach c b ≤ b.length := by
  rcases decodeChunk_cases c b with ⟨_, h⟩ | ⟨_, _, h⟩ | ⟨_, _, _, h⟩ | ⟨_, _, _, _, h⟩ | ⟨_, _, _, _, _, h⟩ | ⟨_, _, _, _, _, h⟩
  all_goals simp only [decodeReach, h]; omega

/-- Chunks that agree on their first six bytes announce the same lengths. -/
theorem chunkLens_congr {b b' : List Byte} (h : b'.take 6 = b.take 6) :
    chunkDlen b' = chunkDlen b ∧ chunkOlen b' = chunkOlen b := by
  have hi : ∀ i < 6, byteAt b' i = byteAt b i := fun i hi => by rw [← byteAt_take hi, h, byteAt_take hi]
  simp only [chunkDlen, chunkOlen, hi 1 (by omega), hi 2 (by omega), hi 3 (by omega), and_self]

/-! ### Big-endian -/

/-- `unbe16` undoes `be16` (R63). -/
theorem unbe16_be16 (v : Word16) : unbe16 (v.extractLsb' 8 8) (v.extractLsb' 0 8) = v.toNat := by
  simp only [unbe16, BitVec.extractLsb'_toNat, Nat.shiftRight_eq_div_pow]
  have := v.isLt
  omega

/-- `be16` undoes `unbe16`. -/
theorem be16_unbe16 (h l : Byte) : be16 (BitVec.ofNat 16 (unbe16 h l)) = [h, l] := by
  have := h.isLt
  have := l.isLt
  simp only [be16, unbe16, List.cons.injEq, and_true]
  constructor <;> apply BitVec.eq_of_toNat_eq <;>
    simp only [BitVec.extractLsb'_toNat, Nat.shiftRight_eq_div_pow, BitVec.toNat_ofNat] <;> omega

theorem unbe16_lt (h l : Byte) : unbe16 h l ≤ dlenMax := by
  have := h.isLt
  have := l.isLt
  simp only [unbe16, dlenMax]
  omega

theorem toNat_ofNat_of_bounded {p : Packet} (h : p.Bounded) :
    (BitVec.ofNat 16 p.data.length).toNat = p.data.length ∧ (BitVec.ofNat 8 p.opt.length).toNat = p.opt.length := by
  obtain ⟨h₁, h₂⟩ := h
  simp only [dlenMax, olenMax] at h₁ h₂
  simp only [BitVec.toNat_ofNat]
  omega

/-! ### Frames -/

/-- The frame of a Packet, spelt out byte by byte up to the data (R60). -/
theorem encodePacket_eq (c : Config) (p : Packet) :
    encodePacket c p = sync :: (BitVec.ofNat 16 p.data.length).extractLsb' 8 8 ::
      (BitVec.ofNat 16 p.data.length).extractLsb' 0 8 :: BitVec.ofNat 8 p.opt.length :: p.ptype ::
      crc8 c (packetHeader p) :: (p.data ++ (p.opt ++ [crc8 c (p.data ++ p.opt)])) := by
  simp [encodePacket, packetHeader, be16]

theorem length_encodePacket (c : Config) (p : Packet) :
    (encodePacket c p).length = 7 + p.data.length + p.opt.length := by
  simp [encodePacket_eq]; omega

end Sys2Proof.Machine
end

