-- ==== Sys2Proof/Laws/Memory.lean ====
section
/-!
SUPPORT. What the operations on one buffer do: a read after a write, a read after a sequence of writes, and that every
write keeps the canonical form and the size.
-/

namespace Sys2Proof.Machine

@[simp] theorem Memory.read?_nil (a : Nat) : Memory.read? [] a = none := rfl

theorem Memory.read?_write (m : Memory) (a x : Nat) (v : Byte) :
    (m.write a v).read? x = if x = a then some v else m.read? x := by
  induction m with
  | nil => simp only [write, read?]; split_ifs <;> simp_all
  | cons cell m ih =>
    obtain ⟨k, w⟩ := cell
    simp only [write]
    split_ifs with h₁ h₂ h₃ h₄ h₅
    all_goals simp_all [read?]
    all_goals first
      | (intro h; omega)
      | (split_ifs <;> simp_all)

@[simp] theorem Memory.read?_write_same (m : Memory) (a : Nat) (v : Byte) : (m.write a v).read? a = some v := by
  simp [Memory.read?_write]

theorem Memory.read?_write_other (m : Memory) {a x : Nat} (h : x ≠ a) (v : Byte) :
    (m.write a v).read? x = m.read? x := by
  simp [Memory.read?_write, h]

/-- A read after a sequence of writes: the byte of the sequence inside it, the old byte outside. -/
theorem Memory.read?_writes (m : Memory) (a x : Nat) (bs : List Byte) :
    (m.writes a bs).read? x = if a ≤ x ∧ x < a + bs.length then bs[x - a]? else m.read? x := by
  induction bs generalizing m a with
  | nil => simp [writes]
  | cons b bs ih =>
    rw [writes, ih]
    by_cases hx : x = a
    · subst hx; simp
    · by_cases h : a + 1 ≤ x ∧ x < a + 1 + bs.length
      · obtain ⟨k, rfl⟩ : ∃ k, x = a + 1 + k := ⟨x - (a + 1), by omega⟩
        have h₁ : a + 1 + k - (a + 1) = k := by omega
        have h₂ : a + 1 + k - a = k + 1 := by omega
        have h₃ : a ≤ a + 1 + k ∧ a + 1 + k < a + (b :: bs).length := by simp; omega
        rw [if_pos h, if_pos h₃, h₁, h₂, List.getElem?_cons_succ]
      · have h₃ : ¬ (a ≤ x ∧ x < a + (b :: bs).length) := by simp; omega
        rw [if_neg h, if_neg h₃, read?_write_other m hx]

/-- The form in which `ENCODE`, `DECODE` and a handed-over chunk use it: the sequence starts at address 0. -/
theorem Memory.read?_writes_zero (m : Memory) (x : Nat) (bs : List Byte) :
    (m.writes 0 bs).read? x = if x < bs.length then bs[x]? else m.read? x := by
  simp [Memory.read?_writes]

theorem Memory.writes_append (m : Memory) (a : Nat) (bs bs' : List Byte) :
    m.writes a (bs ++ bs') = (m.writes a bs).writes (a + bs.length) bs' := by
  induction bs generalizing m a with
  | nil => rfl
  | cons b bs ih => simp [writes, ih]; congr 1; omega

/-! ### The canonical form -/

theorem Memory.risingAbove_mono (m : Memory) {lo lo' : Nat} (h : lo' ≤ lo) (hm : m.risingAbove lo = true) :
    m.risingAbove lo' = true := by
  cases m with
  | nil => rfl
  | cons cell m => simp only [risingAbove, Bool.and_eq_true, decide_eq_true_eq] at hm ⊢; exact ⟨by omega, hm.2⟩

theorem Memory.risingAbove_write (m : Memory) {lo a : Nat} (v : Byte) (h : lo < a) (hm : m.risingAbove lo = true) :
    (m.write a v).risingAbove lo = true := by
  induction m generalizing lo with
  | nil => simp [write, risingAbove, h]
  | cons cell m ih =>
    obtain ⟨k, w⟩ := cell
    simp only [risingAbove, Bool.and_eq_true, decide_eq_true_eq] at hm
    simp only [write]
    split_ifs with h₁ h₂
    · simp [risingAbove, h, h₁, hm.2]
    · subst h₂; simp [risingAbove, h, hm.2]
    · simp [risingAbove, hm.1, ih (by omega : k < a) hm.2]

/-- A write keeps the addresses strictly rising. -/
theorem Memory.wf_write (m : Memory) (a : Nat) (v : Byte) (hm : m.wf = true) : (m.write a v).wf = true := by
  cases m with
  | nil => rfl
  | cons cell m =>
    obtain ⟨k, w⟩ := cell
    simp only [write]
    split_ifs with h₁ h₂
    · simpa [wf, risingAbove, h₁] using hm
    · subst h₂; simpa [wf] using hm
    · exact risingAbove_write m v (by omega) hm

theorem Memory.wf_writes (m : Memory) (a : Nat) (bs : List Byte) (hm : m.wf = true) : (m.writes a bs).wf = true := by
  induction bs generalizing m a with
  | nil => exact hm
  | cons b bs ih => exact ih _ _ (wf_write m a b hm)

theorem Memory.within_write (m : Memory) {a size : Nat} (v : Byte) (h : a < size) (hm : m.within size = true) :
    (m.write a v).within size = true := by
  induction m with
  | nil => simp [write, within, h]
  | cons cell m ih =>
    obtain ⟨k, w⟩ := cell
    simp only [within, List.all_cons, Bool.and_eq_true, decide_eq_true_eq] at hm ih ⊢
    simp only [write]
    split_ifs with h₁ h₂
    · simpa [h] using hm
    · subst h₂; simpa using hm
    · simpa [hm.1] using ih hm.2

theorem Memory.within_writes (m : Memory) {a size : Nat} (bs : List Byte) (h : a + bs.length ≤ size)
    (hm : m.within size = true) : (m.writes a bs).within size = true := by
  induction bs generalizing m a with
  | nil => exact hm
  | cons b bs ih =>
    simp only [List.length_cons] at h
    exact ih _ (by omega) (within_write m b (by omega) hm)

end Sys2Proof.Machine
end

