-- ==== Sys2Proof/Laws/State.lean ====
section
/-!
SUPPORT. One lemma per field per update of the state, true by unfolding, so that no later proof unfolds a record update.
-/

namespace Sys2Proof.Machine

variable (s : State)

@[simp] theorem State.setCrc_crc (v : Byte) : (s.setCrc v).crc = v := rfl
@[simp] theorem State.setCrc_dout (v : Byte) : (s.setCrc v).dout = s.dout := rfl
@[simp] theorem State.setCrc_ptype (v : Byte) : (s.setCrc v).ptype = s.ptype := rfl
@[simp] theorem State.setCrc_dlen (v : Byte) : (s.setCrc v).dlen = s.dlen := rfl
@[simp] theorem State.setCrc_olen (v : Byte) : (s.setCrc v).olen = s.olen := rfl
@[simp] theorem State.setCrc_flen (v : Byte) : (s.setCrc v).flen = s.flen := rfl
@[simp] theorem State.setCrc_status (v : Byte) : (s.setCrc v).status = s.status := rfl
@[simp] theorem State.setCrc_data (v : Byte) : (s.setCrc v).data = s.data := rfl
@[simp] theorem State.setCrc_opt (v : Byte) : (s.setCrc v).opt = s.opt := rfl
@[simp] theorem State.setCrc_fb (v : Byte) : (s.setCrc v).fb = s.fb := rfl
@[simp] theorem State.setCrc_script (v : Byte) : (s.setCrc v).script = s.script := rfl
@[simp] theorem State.setCrc_ip (v : Byte) : (s.setCrc v).ip = s.ip := rfl
@[simp] theorem State.setCrc_unwrittenReads (v : Byte) : (s.setCrc v).unwrittenReads = s.unwrittenReads := rfl
@[simp] theorem State.setCrc_buf (v : Byte) (S : Space) : (s.setCrc v).buf S = s.buf S := by cases S <;> rfl
@[simp] theorem State.setCrc_memRead (v : Byte) (S : Space) (a : Nat) : (s.setCrc v).memRead S a = s.memRead S a := by cases S <;> rfl
@[simp] theorem State.setCrc_memReads (v : Byte) (S : Space) (a n : Nat) : (s.setCrc v).memReads S a n = s.memReads S a n := by cases S <;> rfl
@[simp] theorem State.setCrc_written (v : Byte) (S : Space) (a n : Nat) : (s.setCrc v).written S a n = s.written S a n := by cases S <;> rfl

@[simp] theorem State.setDout_crc (v : Word) : (s.setDout v).crc = s.crc := rfl
@[simp] theorem State.setDout_dout (v : Word) : (s.setDout v).dout = v := rfl
@[simp] theorem State.setDout_ptype (v : Word) : (s.setDout v).ptype = s.ptype := rfl
@[simp] theorem State.setDout_dlen (v : Word) : (s.setDout v).dlen = s.dlen := rfl
@[simp] theorem State.setDout_olen (v : Word) : (s.setDout v).olen = s.olen := rfl
@[simp] theorem State.setDout_flen (v : Word) : (s.setDout v).flen = s.flen := rfl
@[simp] theorem State.setDout_status (v : Word) : (s.setDout v).status = s.status := rfl
@[simp] theorem State.setDout_data (v : Word) : (s.setDout v).data = s.data := rfl
@[simp] theorem State.setDout_opt (v : Word) : (s.setDout v).opt = s.opt := rfl
@[simp] theorem State.setDout_fb (v : Word) : (s.setDout v).fb = s.fb := rfl
@[simp] theorem State.setDout_script (v : Word) : (s.setDout v).script = s.script := rfl
@[simp] theorem State.setDout_ip (v : Word) : (s.setDout v).ip = s.ip := rfl
@[simp] theorem State.setDout_unwrittenReads (v : Word) : (s.setDout v).unwrittenReads = s.unwrittenReads := rfl
@[simp] theorem State.setDout_buf (v : Word) (S : Space) : (s.setDout v).buf S = s.buf S := by cases S <;> rfl
@[simp] theorem State.setDout_memRead (v : Word) (S : Space) (a : Nat) : (s.setDout v).memRead S a = s.memRead S a := by cases S <;> rfl
@[simp] theorem State.setDout_memReads (v : Word) (S : Space) (a n : Nat) : (s.setDout v).memReads S a n = s.memReads S a n := by cases S <;> rfl
@[simp] theorem State.setDout_written (v : Word) (S : Space) (a n : Nat) : (s.setDout v).written S a n = s.written S a n := by cases S <;> rfl

@[simp] theorem State.setPtype_crc (v : Byte) : (s.setPtype v).crc = s.crc := rfl
@[simp] theorem State.setPtype_dout (v : Byte) : (s.setPtype v).dout = s.dout := rfl
@[simp] theorem State.setPtype_ptype (v : Byte) : (s.setPtype v).ptype = v := rfl
@[simp] theorem State.setPtype_dlen (v : Byte) : (s.setPtype v).dlen = s.dlen := rfl
@[simp] theorem State.setPtype_olen (v : Byte) : (s.setPtype v).olen = s.olen := rfl
@[simp] theorem State.setPtype_flen (v : Byte) : (s.setPtype v).flen = s.flen := rfl
@[simp] theorem State.setPtype_status (v : Byte) : (s.setPtype v).status = s.status := rfl
@[simp] theorem State.setPtype_data (v : Byte) : (s.setPtype v).data = s.data := rfl
@[simp] theorem State.setPtype_opt (v : Byte) : (s.setPtype v).opt = s.opt := rfl
@[simp] theorem State.setPtype_fb (v : Byte) : (s.setPtype v).fb = s.fb := rfl
@[simp] theorem State.setPtype_script (v : Byte) : (s.setPtype v).script = s.script := rfl
@[simp] theorem State.setPtype_ip (v : Byte) : (s.setPtype v).ip = s.ip := rfl
@[simp] theorem State.setPtype_unwrittenReads (v : Byte) : (s.setPtype v).unwrittenReads = s.unwrittenReads := rfl
@[simp] theorem State.setPtype_buf (v : Byte) (S : Space) : (s.setPtype v).buf S = s.buf S := by cases S <;> rfl
@[simp] theorem State.setPtype_memRead (v : Byte) (S : Space) (a : Nat) : (s.setPtype v).memRead S a = s.memRead S a := by cases S <;> rfl
@[simp] theorem State.setPtype_memReads (v : Byte) (S : Space) (a n : Nat) : (s.setPtype v).memReads S a n = s.memReads S a n := by cases S <;> rfl
@[simp] theorem State.setPtype_written (v : Byte) (S : Space) (a n : Nat) : (s.setPtype v).written S a n = s.written S a n := by cases S <;> rfl

@[simp] theorem State.setDlen_crc (v : Word16) : (s.setDlen v).crc = s.crc := rfl
@[simp] theorem State.setDlen_dout (v : Word16) : (s.setDlen v).dout = s.dout := rfl
@[simp] theorem State.setDlen_ptype (v : Word16) : (s.setDlen v).ptype = s.ptype := rfl
@[simp] theorem State.setDlen_dlen (v : Word16) : (s.setDlen v).dlen = v := rfl
@[simp] theorem State.setDlen_olen (v : Word16) : (s.setDlen v).olen = s.olen := rfl
@[simp] theorem State.setDlen_flen (v : Word16) : (s.setDlen v).flen = s.flen := rfl
@[simp] theorem State.setDlen_status (v : Word16) : (s.setDlen v).status = s.status := rfl
@[simp] theorem State.setDlen_data (v : Word16) : (s.setDlen v).data = s.data := rfl
@[simp] theorem State.setDlen_opt (v : Word16) : (s.setDlen v).opt = s.opt := rfl
@[simp] theorem State.setDlen_fb (v : Word16) : (s.setDlen v).fb = s.fb := rfl
@[simp] theorem State.setDlen_script (v : Word16) : (s.setDlen v).script = s.script := rfl
@[simp] theorem State.setDlen_ip (v : Word16) : (s.setDlen v).ip = s.ip := rfl
@[simp] theorem State.setDlen_unwrittenReads (v : Word16) : (s.setDlen v).unwrittenReads = s.unwrittenReads := rfl
@[simp] theorem State.setDlen_buf (v : Word16) (S : Space) : (s.setDlen v).buf S = s.buf S := by cases S <;> rfl
@[simp] theorem State.setDlen_memRead (v : Word16) (S : Space) (a : Nat) : (s.setDlen v).memRead S a = s.memRead S a := by cases S <;> rfl
@[simp] theorem State.setDlen_memReads (v : Word16) (S : Space) (a n : Nat) : (s.setDlen v).memReads S a n = s.memReads S a n := by cases S <;> rfl
@[simp] theorem State.setDlen_written (v : Word16) (S : Space) (a n : Nat) : (s.setDlen v).written S a n = s.written S a n := by cases S <;> rfl

@[simp] theorem State.setOlen_crc (v : Byte) : (s.setOlen v).crc = s.crc := rfl
@[simp] theorem State.setOlen_dout (v : Byte) : (s.setOlen v).dout = s.dout := rfl
@[simp] theorem State.setOlen_ptype (v : Byte) : (s.setOlen v).ptype = s.ptype := rfl
@[simp] theorem State.setOlen_dlen (v : Byte) : (s.setOlen v).dlen = s.dlen := rfl
@[simp] theorem State.setOlen_olen (v : Byte) : (s.setOlen v).olen = v := rfl
@[simp] theorem State.setOlen_flen (v : Byte) : (s.setOlen v).flen = s.flen := rfl
@[simp] theorem State.setOlen_status (v : Byte) : (s.setOlen v).status = s.status := rfl
@[simp] theorem State.setOlen_data (v : Byte) : (s.setOlen v).data = s.data := rfl
@[simp] theorem State.setOlen_opt (v : Byte) : (s.setOlen v).opt = s.opt := rfl
@[simp] theorem State.setOlen_fb (v : Byte) : (s.setOlen v).fb = s.fb := rfl
@[simp] theorem State.setOlen_script (v : Byte) : (s.setOlen v).script = s.script := rfl
@[simp] theorem State.setOlen_ip (v : Byte) : (s.setOlen v).ip = s.ip := rfl
@[simp] theorem State.setOlen_unwrittenReads (v : Byte) : (s.setOlen v).unwrittenReads = s.unwrittenReads := rfl
@[simp] theorem State.setOlen_buf (v : Byte) (S : Space) : (s.setOlen v).buf S = s.buf S := by cases S <;> rfl
@[simp] theorem State.setOlen_memRead (v : Byte) (S : Space) (a : Nat) : (s.setOlen v).memRead S a = s.memRead S a := by cases S <;> rfl
@[simp] theorem State.setOlen_memReads (v : Byte) (S : Space) (a n : Nat) : (s.setOlen v).memReads S a n = s.memReads S a n := by cases S <;> rfl
@[simp] theorem State.setOlen_written (v : Byte) (S : Space) (a n : Nat) : (s.setOlen v).written S a n = s.written S a n := by cases S <;> rfl

@[simp] theorem State.setFlen_crc (v : Word17) : (s.setFlen v).crc = s.crc := rfl
@[simp] theorem State.setFlen_dout (v : Word17) : (s.setFlen v).dout = s.dout := rfl
@[simp] theorem State.setFlen_ptype (v : Word17) : (s.setFlen v).ptype = s.ptype := rfl
@[simp] theorem State.setFlen_dlen (v : Word17) : (s.setFlen v).dlen = s.dlen := rfl
@[simp] theorem State.setFlen_olen (v : Word17) : (s.setFlen v).olen = s.olen := rfl
@[simp] theorem State.setFlen_flen (v : Word17) : (s.setFlen v).flen = v := rfl
@[simp] theorem State.setFlen_status (v : Word17) : (s.setFlen v).status = s.status := rfl
@[simp] theorem State.setFlen_data (v : Word17) : (s.setFlen v).data = s.data := rfl
@[simp] theorem State.setFlen_opt (v : Word17) : (s.setFlen v).opt = s.opt := rfl
@[simp] theorem State.setFlen_fb (v : Word17) : (s.setFlen v).fb = s.fb := rfl
@[simp] theorem State.setFlen_script (v : Word17) : (s.setFlen v).script = s.script := rfl
@[simp] theorem State.setFlen_ip (v : Word17) : (s.setFlen v).ip = s.ip := rfl
@[simp] theorem State.setFlen_unwrittenReads (v : Word17) : (s.setFlen v).unwrittenReads = s.unwrittenReads := rfl
@[simp] theorem State.setFlen_buf (v : Word17) (S : Space) : (s.setFlen v).buf S = s.buf S := by cases S <;> rfl
@[simp] theorem State.setFlen_memRead (v : Word17) (S : Space) (a : Nat) : (s.setFlen v).memRead S a = s.memRead S a := by cases S <;> rfl
@[simp] theorem State.setFlen_memReads (v : Word17) (S : Space) (a n : Nat) : (s.setFlen v).memReads S a n = s.memReads S a n := by cases S <;> rfl
@[simp] theorem State.setFlen_written (v : Word17) (S : Space) (a n : Nat) : (s.setFlen v).written S a n = s.written S a n := by cases S <;> rfl

@[simp] theorem State.setStatus_crc (e : ResultCode) : (s.setStatus e).crc = s.crc := rfl
@[simp] theorem State.setStatus_dout (e : ResultCode) : (s.setStatus e).dout = s.dout := rfl
@[simp] theorem State.setStatus_ptype (e : ResultCode) : (s.setStatus e).ptype = s.ptype := rfl
@[simp] theorem State.setStatus_dlen (e : ResultCode) : (s.setStatus e).dlen = s.dlen := rfl
@[simp] theorem State.setStatus_olen (e : ResultCode) : (s.setStatus e).olen = s.olen := rfl
@[simp] theorem State.setStatus_flen (e : ResultCode) : (s.setStatus e).flen = s.flen := rfl
@[simp] theorem State.setStatus_status (e : ResultCode) : (s.setStatus e).status = e.code.setWidth 8 := rfl
@[simp] theorem State.setStatus_data (e : ResultCode) : (s.setStatus e).data = s.data := rfl
@[simp] theorem State.setStatus_opt (e : ResultCode) : (s.setStatus e).opt = s.opt := rfl
@[simp] theorem State.setStatus_fb (e : ResultCode) : (s.setStatus e).fb = s.fb := rfl
@[simp] theorem State.setStatus_script (e : ResultCode) : (s.setStatus e).script = s.script := rfl
@[simp] theorem State.setStatus_ip (e : ResultCode) : (s.setStatus e).ip = s.ip := rfl
@[simp] theorem State.setStatus_unwrittenReads (e : ResultCode) : (s.setStatus e).unwrittenReads = s.unwrittenReads := rfl
@[simp] theorem State.setStatus_buf (e : ResultCode) (S : Space) : (s.setStatus e).buf S = s.buf S := by cases S <;> rfl
@[simp] theorem State.setStatus_memRead (e : ResultCode) (S : Space) (a : Nat) : (s.setStatus e).memRead S a = s.memRead S a := by cases S <;> rfl
@[simp] theorem State.setStatus_memReads (e : ResultCode) (S : Space) (a n : Nat) : (s.setStatus e).memReads S a n = s.memReads S a n := by cases S <;> rfl
@[simp] theorem State.setStatus_written (e : ResultCode) (S : Space) (a n : Nat) : (s.setStatus e).written S a n = s.written S a n := by cases S <;> rfl

@[simp] theorem State.raise_crc (e : ResultCode) : (s.raise e).crc = s.crc := rfl
@[simp] theorem State.raise_dout (e : ResultCode) : (s.raise e).dout = s.dout := rfl
@[simp] theorem State.raise_ptype (e : ResultCode) : (s.raise e).ptype = s.ptype := rfl
@[simp] theorem State.raise_dlen (e : ResultCode) : (s.raise e).dlen = s.dlen := rfl
@[simp] theorem State.raise_olen (e : ResultCode) : (s.raise e).olen = s.olen := rfl
@[simp] theorem State.raise_flen (e : ResultCode) : (s.raise e).flen = s.flen := rfl
@[simp] theorem State.raise_status (e : ResultCode) : (s.raise e).status = e.code.setWidth 8 := rfl
@[simp] theorem State.raise_data (e : ResultCode) : (s.raise e).data = s.data := rfl
@[simp] theorem State.raise_opt (e : ResultCode) : (s.raise e).opt = s.opt := rfl
@[simp] theorem State.raise_fb (e : ResultCode) : (s.raise e).fb = s.fb := rfl
@[simp] theorem State.raise_script (e : ResultCode) : (s.raise e).script = s.script := rfl
@[simp] theorem State.raise_ip (e : ResultCode) : (s.raise e).ip = s.ip := rfl
@[simp] theorem State.raise_unwrittenReads (e : ResultCode) : (s.raise e).unwrittenReads = s.unwrittenReads := rfl
@[simp] theorem State.raise_buf (e : ResultCode) (S : Space) : (s.raise e).buf S = s.buf S := by cases S <;> rfl
@[simp] theorem State.raise_memRead (e : ResultCode) (S : Space) (a : Nat) : (s.raise e).memRead S a = s.memRead S a := by cases S <;> rfl
@[simp] theorem State.raise_memReads (e : ResultCode) (S : Space) (a n : Nat) : (s.raise e).memReads S a n = s.memReads S a n := by cases S <;> rfl
@[simp] theorem State.raise_written (e : ResultCode) (S : Space) (a n : Nat) : (s.raise e).written S a n = s.written S a n := by cases S <;> rfl

@[simp] theorem State.advance_crc : (s.advance).crc = s.crc := rfl
@[simp] theorem State.advance_dout : (s.advance).dout = s.dout := rfl
@[simp] theorem State.advance_ptype : (s.advance).ptype = s.ptype := rfl
@[simp] theorem State.advance_dlen : (s.advance).dlen = s.dlen := rfl
@[simp] theorem State.advance_olen : (s.advance).olen = s.olen := rfl
@[simp] theorem State.advance_flen : (s.advance).flen = s.flen := rfl
@[simp] theorem State.advance_status : (s.advance).status = s.status := rfl
@[simp] theorem State.advance_data : (s.advance).data = s.data := rfl
@[simp] theorem State.advance_opt : (s.advance).opt = s.opt := rfl
@[simp] theorem State.advance_fb : (s.advance).fb = s.fb := rfl
@[simp] theorem State.advance_script : (s.advance).script = s.script := rfl
@[simp] theorem State.advance_ip : (s.advance).ip = s.ip + 1 := rfl
@[simp] theorem State.advance_unwrittenReads : (s.advance).unwrittenReads = s.unwrittenReads := rfl
@[simp] theorem State.advance_buf (S : Space) : (s.advance).buf S = s.buf S := by cases S <;> rfl
@[simp] theorem State.advance_memRead (S : Space) (a : Nat) : (s.advance).memRead S a = s.memRead S a := by cases S <;> rfl
@[simp] theorem State.advance_memReads (S : Space) (a n : Nat) : (s.advance).memReads S a n = s.memReads S a n := by cases S <;> rfl
@[simp] theorem State.advance_written (S : Space) (a n : Nat) : (s.advance).written S a n = s.written S a n := by cases S <;> rfl

@[simp] theorem State.noteRead_crc (w : Bool) : (s.noteRead w).crc = s.crc := rfl
@[simp] theorem State.noteRead_dout (w : Bool) : (s.noteRead w).dout = s.dout := rfl
@[simp] theorem State.noteRead_ptype (w : Bool) : (s.noteRead w).ptype = s.ptype := rfl
@[simp] theorem State.noteRead_dlen (w : Bool) : (s.noteRead w).dlen = s.dlen := rfl
@[simp] theorem State.noteRead_olen (w : Bool) : (s.noteRead w).olen = s.olen := rfl
@[simp] theorem State.noteRead_flen (w : Bool) : (s.noteRead w).flen = s.flen := rfl
@[simp] theorem State.noteRead_status (w : Bool) : (s.noteRead w).status = s.status := rfl
@[simp] theorem State.noteRead_data (w : Bool) : (s.noteRead w).data = s.data := rfl
@[simp] theorem State.noteRead_opt (w : Bool) : (s.noteRead w).opt = s.opt := rfl
@[simp] theorem State.noteRead_fb (w : Bool) : (s.noteRead w).fb = s.fb := rfl
@[simp] theorem State.noteRead_script (w : Bool) : (s.noteRead w).script = s.script := rfl
@[simp] theorem State.noteRead_ip (w : Bool) : (s.noteRead w).ip = s.ip := rfl
@[simp] theorem State.noteRead_unwrittenReads (w : Bool) : (s.noteRead w).unwrittenReads = if w then s.unwrittenReads else s.unwrittenReads + 1 := rfl
@[simp] theorem State.noteRead_buf (w : Bool) (S : Space) : (s.noteRead w).buf S = s.buf S := by cases S <;> rfl
@[simp] theorem State.noteRead_written (w : Bool) (S : Space) (a n : Nat) : (s.noteRead w).written S a n = s.written S a n := by cases S <;> rfl

@[simp] theorem State.setBuf_crc (S : Space) (m : Memory) : (s.setBuf S m).crc = s.crc := by cases S <;> rfl
@[simp] theorem State.setBuf_dout (S : Space) (m : Memory) : (s.setBuf S m).dout = s.dout := by cases S <;> rfl
@[simp] theorem State.setBuf_ptype (S : Space) (m : Memory) : (s.setBuf S m).ptype = s.ptype := by cases S <;> rfl
@[simp] theorem State.setBuf_dlen (S : Space) (m : Memory) : (s.setBuf S m).dlen = s.dlen := by cases S <;> rfl
@[simp] theorem State.setBuf_olen (S : Space) (m : Memory) : (s.setBuf S m).olen = s.olen := by cases S <;> rfl
@[simp] theorem State.setBuf_flen (S : Space) (m : Memory) : (s.setBuf S m).flen = s.flen := by cases S <;> rfl
@[simp] theorem State.setBuf_status (S : Space) (m : Memory) : (s.setBuf S m).status = s.status := by cases S <;> rfl
@[simp] theorem State.setBuf_script (S : Space) (m : Memory) : (s.setBuf S m).script = s.script := by cases S <;> rfl
@[simp] theorem State.setBuf_ip (S : Space) (m : Memory) : (s.setBuf S m).ip = s.ip := by cases S <;> rfl
@[simp] theorem State.setBuf_unwrittenReads (S : Space) (m : Memory) : (s.setBuf S m).unwrittenReads = s.unwrittenReads := by cases S <;> rfl
@[simp] theorem State.setBuf_data_data (m : Memory) : (s.setBuf .data m).data = m := rfl
@[simp] theorem State.setBuf_data_opt (m : Memory) : (s.setBuf .data m).opt = s.opt := rfl
@[simp] theorem State.setBuf_data_fb (m : Memory) : (s.setBuf .data m).fb = s.fb := rfl
@[simp] theorem State.setBuf_opt_data (m : Memory) : (s.setBuf .opt m).data = s.data := rfl
@[simp] theorem State.setBuf_opt_opt (m : Memory) : (s.setBuf .opt m).opt = m := rfl
@[simp] theorem State.setBuf_opt_fb (m : Memory) : (s.setBuf .opt m).fb = s.fb := rfl
@[simp] theorem State.setBuf_fb_data (m : Memory) : (s.setBuf .fb m).data = s.data := rfl
@[simp] theorem State.setBuf_fb_opt (m : Memory) : (s.setBuf .fb m).opt = s.opt := rfl
@[simp] theorem State.setBuf_fb_fb (m : Memory) : (s.setBuf .fb m).fb = m := rfl
@[simp] theorem State.setBuf_buf_same (S : Space) (m : Memory) : (s.setBuf S m).buf S = m := by cases S <;> rfl
theorem State.setBuf_buf_other (S T : Space) (h : T ≠ S) (m : Memory) : (s.setBuf S m).buf T = s.buf T := by
  cases S <;> cases T <;> first | rfl | exact absurd rfl h
@[simp] theorem State.buf_data : s.buf .data = s.data := rfl
@[simp] theorem State.buf_opt : s.buf .opt = s.opt := rfl
@[simp] theorem State.buf_fb : s.buf .fb = s.fb := rfl

@[simp] theorem State.memWrites_crc (S : Space) (a : Nat) (bs : List Byte) : (s.memWrites S a bs).crc = s.crc := by cases S <;> rfl
@[simp] theorem State.memWrites_dout (S : Space) (a : Nat) (bs : List Byte) : (s.memWrites S a bs).dout = s.dout := by cases S <;> rfl
@[simp] theorem State.memWrites_ptype (S : Space) (a : Nat) (bs : List Byte) : (s.memWrites S a bs).ptype = s.ptype := by cases S <;> rfl
@[simp] theorem State.memWrites_dlen (S : Space) (a : Nat) (bs : List Byte) : (s.memWrites S a bs).dlen = s.dlen := by cases S <;> rfl
@[simp] theorem State.memWrites_olen (S : Space) (a : Nat) (bs : List Byte) : (s.memWrites S a bs).olen = s.olen := by cases S <;> rfl
@[simp] theorem State.memWrites_flen (S : Space) (a : Nat) (bs : List Byte) : (s.memWrites S a bs).flen = s.flen := by cases S <;> rfl
@[simp] theorem State.memWrites_status (S : Space) (a : Nat) (bs : List Byte) : (s.memWrites S a bs).status = s.status := by cases S <;> rfl
@[simp] theorem State.memWrites_script (S : Space) (a : Nat) (bs : List Byte) : (s.memWrites S a bs).script = s.script := by cases S <;> rfl
@[simp] theorem State.memWrites_ip (S : Space) (a : Nat) (bs : List Byte) : (s.memWrites S a bs).ip = s.ip := by cases S <;> rfl
@[simp] theorem State.memWrites_unwrittenReads (S : Space) (a : Nat) (bs : List Byte) : (s.memWrites S a bs).unwrittenReads = s.unwrittenReads := by cases S <;> rfl
@[simp] theorem State.memWrites_data_data (a : Nat) (bs : List Byte) :
    (s.memWrites .data a bs).data = s.data.writes a bs := rfl
@[simp] theorem State.memWrites_data_opt (a : Nat) (bs : List Byte) :
    (s.memWrites .data a bs).opt = s.opt := rfl
@[simp] theorem State.memWrites_data_fb (a : Nat) (bs : List Byte) :
    (s.memWrites .data a bs).fb = s.fb := rfl
@[simp] theorem State.memWrites_opt_data (a : Nat) (bs : List Byte) :
    (s.memWrites .opt a bs).data = s.data := rfl
@[simp] theorem State.memWrites_opt_opt (a : Nat) (bs : List Byte) :
    (s.memWrites .opt a bs).opt = s.opt.writes a bs := rfl
@[simp] theorem State.memWrites_opt_fb (a : Nat) (bs : List Byte) :
    (s.memWrites .opt a bs).fb = s.fb := rfl
@[simp] theorem State.memWrites_fb_data (a : Nat) (bs : List Byte) :
    (s.memWrites .fb a bs).data = s.data := rfl
@[simp] theorem State.memWrites_fb_opt (a : Nat) (bs : List Byte) :
    (s.memWrites .fb a bs).opt = s.opt := rfl
@[simp] theorem State.memWrites_fb_fb (a : Nat) (bs : List Byte) :
    (s.memWrites .fb a bs).fb = s.fb.writes a bs := rfl

@[simp] theorem State.resetBlock_crc (c : Config) : (s.resetBlock c).crc = c.crcInit := rfl
@[simp] theorem State.resetBlock_dout (c : Config) : (s.resetBlock c).dout = 0 := rfl
@[simp] theorem State.resetBlock_ptype (c : Config) : (s.resetBlock c).ptype = 0 := rfl
@[simp] theorem State.resetBlock_dlen (c : Config) : (s.resetBlock c).dlen = 0 := rfl
@[simp] theorem State.resetBlock_olen (c : Config) : (s.resetBlock c).olen = 0 := rfl
@[simp] theorem State.resetBlock_flen (c : Config) : (s.resetBlock c).flen = 0 := rfl
@[simp] theorem State.resetBlock_status (c : Config) : (s.resetBlock c).status = 0 := rfl
@[simp] theorem State.resetBlock_data (c : Config) : (s.resetBlock c).data = [] := rfl
@[simp] theorem State.resetBlock_opt (c : Config) : (s.resetBlock c).opt = [] := rfl
@[simp] theorem State.resetBlock_fb (c : Config) : (s.resetBlock c).fb = [] := rfl
@[simp] theorem State.resetBlock_script (c : Config) : (s.resetBlock c).script = s.script := rfl
@[simp] theorem State.resetBlock_ip (c : Config) : (s.resetBlock c).ip = s.ip := rfl
@[simp] theorem State.resetBlock_unwrittenReads (c : Config) : (s.resetBlock c).unwrittenReads = s.unwrittenReads := rfl

end Sys2Proof.Machine
end

