-- ==== Sys2Proof/Laws/Effects.lean ====
section
/-!
SUPPORT. What each shared operation can do, said once: reading bytes, the two operand checks, taking the result of
`decode`, loading a chunk.
-/

namespace Sys2Proof.Machine

/-! ### Reading bytes -/

theorem State.memRead_of_written {s : State} {S : Space} {a : Nat} {v : Byte} (h : (s.buf S).read? a = some v) :
    s.memRead S a = v := by
  simp [State.memRead, h]

@[simp] theorem State.length_memReads (s : State) (S : Space) (a n : Nat) : (s.memReads S a n).length = n := by
  simp [State.memReads]

theorem State.getElem?_memReads (s : State) (S : Space) (a n i : Nat) (h : i < n) :
    (s.memReads S a n)[i]? = some (s.memRead S (a + i)) := by
  simp [State.memReads, h]

theorem State.written_iff (s : State) (S : Space) (a n : Nat) :
    s.written S a n = true ↔ ∀ i < n, ((s.buf S).read? (a + i)).isSome = true := by
  simp [State.written, List.all_eq_true]

/-- A range known to hold `bs` reads as `bs` and is written. -/
theorem State.memReads_of_holds {s : State} {S : Space} {bs : List Byte}
    (h : ∀ i < bs.length, (s.buf S).read? i = bs[i]?) : s.memReads S 0 bs.length = bs := by
  apply List.ext_getElem?
  intro i
  by_cases hi : i < bs.length
  · rw [State.getElem?_memReads s S 0 bs.length i hi, Nat.zero_add, List.getElem?_eq_getElem hi]
    exact congrArg some (State.memRead_of_written (by rw [h i hi, List.getElem?_eq_getElem hi]))
  · rw [List.getElem?_eq_none (by simp; omega), List.getElem?_eq_none (by omega)]

theorem State.written_of_holds {s : State} {S : Space} {bs : List Byte} {n : Nat} (hn : n ≤ bs.length)
    (h : ∀ i < bs.length, (s.buf S).read? i = bs[i]?) : s.written S 0 n = true := by
  rw [State.written_iff]
  intro i hi
  rw [Nat.zero_add, h i (by omega), List.getElem?_eq_getElem (by omega)]
  rfl

/-- A written range reads as what the buffer holds. -/
theorem State.read?_of_written {s : State} {S : Space} {n i : Nat} (h : s.written S 0 n = true) (hi : i < n) :
    (s.buf S).read? i = some (s.memRead S i) := by
  have := (State.written_iff s S 0 n).1 h i hi
  rw [Nat.zero_add] at this
  obtain ⟨v, hv⟩ := Option.isSome_iff_exists.1 this
  rw [hv, State.memRead_of_written hv]

@[simp] theorem State.noteRead_true (s : State) : s.noteRead true = s := rfl

/-! ### Operands -/

theorem withFbAddress_inside {a : Word17} (h : a.toNat < 65797) (f : Nat → State → State) (s : State) :
    withFbAddress a f s = f a.toNat s := by
  simp only [withFbAddress, fbSize, frameMax, overhead, dlenMax, olenMax]
  exact if_neg (by omega)

theorem withFbAddress_outside {a : Word17} (h : 65797 ≤ a.toNat) (f : Nat → State → State) (s : State) :
    withFbAddress a f s = s.raise .addressError := by
  simp only [withFbAddress, fbSize, frameMax, overhead, dlenMax, olenMax]
  exact if_pos (by omega)

theorem withFbLength_inside {n : Word17} (h : n.toNat ≤ 65797) (f : Word17 → State → State) (s : State) :
    withFbLength n f s = f n s := by
  simp only [withFbLength, fbSize, frameMax, overhead, dlenMax, olenMax]
  exact if_neg (by omega)

theorem withFbLength_outside {n : Word17} (h : 65797 < n.toNat) (f : Word17 → State → State) (s : State) :
    withFbLength n f s = s.raise .addressError := by
  simp only [withFbLength, fbSize, frameMax, overhead, dlenMax, olenMax]
  exact if_pos (by omega)

/-- Everything a frame-buffer address operand can do. -/
theorem withFbAddress_cases (a : Word17) (f : Nat → State → State) (s : State) :
    (65797 ≤ a.toNat ∧ withFbAddress a f s = { s with status := 6 }) ∨
    (a.toNat < 65797 ∧ withFbAddress a f s = f a.toNat s) := by
  by_cases h : a.toNat < 65797
  · exact .inr ⟨h, withFbAddress_inside h f s⟩
  · exact .inl ⟨by omega, by rw [withFbAddress_outside (by omega)]; rfl⟩

/-- Everything a frame-buffer length operand can do. -/
theorem withFbLength_cases (n : Word17) (f : Word17 → State → State) (s : State) :
    (65797 < n.toNat ∧ withFbLength n f s = { s with status := 6 }) ∨
    (n.toNat ≤ 65797 ∧ withFbLength n f s = f n s) := by
  by_cases h : n.toNat ≤ 65797
  · exact .inr ⟨h, withFbLength_inside h f s⟩
  · exact .inl ⟨by omega, by rw [withFbLength_outside (by omega)]; rfl⟩

/-- A load of a written byte is a register read of it. -/
theorem readByte_of_written {s : State} {S : Space} {a : Nat} {v : Byte} (h : (s.buf S).read? a = some v) :
    readByte S a s = s.setDout (zext32 v) := by
  have hw : s.written S a 1 = true := by rw [State.written_iff]; intro i hi; obtain rfl : i = 0 := by omega
                                         simp [h]
  simp [readByte, hw, State.memRead_of_written h]

/-- A load of a never-written byte counts one more such read. -/
theorem readByte_of_unwritten {s : State} {S : Space} {a : Nat} (h : (s.buf S).read? a = none) :
    readByte S a s = { s with dout := zext32 (s.memRead S a), unwrittenReads := s.unwrittenReads + 1 } := by
  have hw : s.written S a 1 = false := by
    rw [← Bool.not_eq_true, State.written_iff]
    intro hall
    simpa [h] using hall 0 (by omega)
  simp [readByte, hw, State.noteRead, State.setDout]

theorem zext32_eq_ofNat {n : Nat} (v : BitVec n) : zext32 v = BitVec.ofNat 32 v.toNat := by
  apply BitVec.eq_of_toNat_eq
  simp [zext32]

/-! ### The result of `decode` -/

theorem State.takeResult_err (s : State) (e : DecodeError) :
    s.takeResult (.err e) = { s with status := e.toCode.code.setWidth 8 } := rfl

/-- A loaded Packet touches only the Packet registers and buffers and `STATUS`. -/
theorem State.takeResult_ok (s : State) (p : Packet) :
    s.takeResult (.ok p) = { s with
      ptype := p.ptype, dlen := BitVec.ofNat 16 p.data.length, olen := BitVec.ofNat 8 p.opt.length,
      data := s.data.writes 0 p.data, opt := s.opt.writes 0 p.opt, status := 0 } := rfl

/-- Everything `DECODE` can do. -/
theorem decodeOp_cases (c : Config) (s : State) :
    (∃ e, decodeChunk c s.chunk = .err e ∧ decodeOp c s = { s with
      status := e.toCode.code.setWidth 8, unwrittenReads := (decodeOp c s).unwrittenReads }) ∨
    (∃ p, decodeChunk c s.chunk = .ok p ∧ decodeOp c s = { s with
      ptype := p.ptype, dlen := BitVec.ofNat 16 p.data.length, olen := BitVec.ofNat 8 p.opt.length,
      data := s.data.writes 0 p.data, opt := s.opt.writes 0 p.opt, status := 0,
      unwrittenReads := (decodeOp c s).unwrittenReads }) := by
  cases h : decodeChunk c s.chunk with
  | err e => exact .inl ⟨e, rfl, by rw [decodeOp, h]; rfl⟩
  | ok p => exact .inr ⟨p, rfl, by rw [decodeOp, h]; rfl⟩

/-- What `DECODE` adds to the model's count: nothing when the bytes it reads are written. -/
theorem decodeOp_unwrittenReads (c : Config) (s : State) :
    (decodeOp c s).unwrittenReads = if s.written .fb 0 (decodeReach c s.chunk) then s.unwrittenReads
      else s.unwrittenReads + 1 := by
  have h : ∀ r, (s.takeResult r).unwrittenReads = s.unwrittenReads := by
    intro r; cases r <;> rfl
  simp [decodeOp, h]

/-- Everything `ENCODE` does. -/
theorem encodeOp_eq (c : Config) (s : State) :
    encodeOp c s = { s with
      fb := s.fb.writes 0 (encodePacket c s.packet), flen := BitVec.ofNat 17 s.frameLen, status := 0,
      unwrittenReads := (encodeOp c s).unwrittenReads } := rfl

@[simp] theorem encodeOp_fb (c : Config) (s : State) :
    (encodeOp c s).fb = s.fb.writes 0 (encodePacket c s.packet) := rfl

@[simp] theorem encodeOp_data (c : Config) (s : State) : (encodeOp c s).data = s.data := rfl

@[simp] theorem encodeOp_opt (c : Config) (s : State) : (encodeOp c s).opt = s.opt := rfl

@[simp] theorem encodeOp_dlen (c : Config) (s : State) : (encodeOp c s).dlen = s.dlen := rfl

@[simp] theorem encodeOp_olen (c : Config) (s : State) : (encodeOp c s).olen = s.olen := rfl

@[simp] theorem encodeOp_status (c : Config) (s : State) : (encodeOp c s).status = 0 := rfl

/-- What `ENCODE` adds to the model's count: nothing when every byte of the Packet is written. -/
theorem encodeOp_unwrittenReads (c : Config) (s : State) :
    (encodeOp c s).unwrittenReads =
      if s.written .data 0 s.dlen.toNat && s.written .opt 0 s.olen.toNat then s.unwrittenReads
      else s.unwrittenReads + 1 := rfl

/-- `ENCODE` of written bytes leaves the Packet the block holds. -/
theorem packet_encodeOp (c : Config) (s : State) (h : s.PacketWritten) : (encodeOp c s).packet = s.packet := by
  have hn : (encodeOp c s).unwrittenReads = s.unwrittenReads := by
    rw [encodeOp_unwrittenReads, h.1, h.2]
    rfl
  simp only [State.packet, State.memReads, State.memRead, hn, encodeOp_dlen, encodeOp_olen, State.buf_data,
    State.buf_opt, encodeOp_data, encodeOp_opt]
  rfl

theorem frameLen_le (s : State) : 7 ≤ s.frameLen ∧ s.frameLen ≤ 65797 := by
  have := s.dlen.isLt
  have := s.olen.isLt
  simp only [State.frameLen, overhead]
  omega

theorem packet_bounded (s : State) : s.packet.Bounded := by
  have := s.dlen.isLt
  have := s.olen.isLt
  simp only [Packet.Bounded, State.packet, State.length_memReads, dlenMax, olenMax]
  omega

theorem length_encodePacket_packet (c : Config) (s : State) : (encodePacket c s.packet).length = s.frameLen := by
  simp [length_encodePacket, State.packet, State.frameLen, overhead]

/-- Loading a chunk touches only the frame buffer and `FLEN`. -/
theorem loadChunk_eq (bs : List Byte) (s : State) :
    loadChunk bs s = { s with
      fb := s.fb.writes 0 (bs.take fbSize), flen := BitVec.ofNat 17 (bs.take fbSize).length } := rfl

/-- The chunk that stands in the block after loading: the first `FB_SIZE` bytes. -/
theorem chunk_loadChunk (bs : List Byte) (s : State) : (loadChunk bs s).chunk = bs.take fbSize := by
  have hlen : (bs.take fbSize).length ≤ 65797 := by
    simp [fbSize, frameMax, overhead, dlenMax, olenMax]
  have h : (loadChunk bs s).flen.toNat = (bs.take fbSize).length := by
    rw [loadChunk_eq]
    exact Nat.mod_eq_of_lt (by omega)
  rw [State.chunk, h]
  refine State.memReads_of_holds fun i hi => ?_
  rw [State.buf_fb, loadChunk_eq, Memory.read?_writes_zero, if_pos hi]

theorem length_take_fbSize (bs : List Byte) : (bs.take fbSize).length ≤ 65797 := by
  simp [fbSize, frameMax, overhead, dlenMax, olenMax]

/-- The chunk that was just loaded is written. -/
theorem chunkWritten_loadChunk (bs : List Byte) (s : State) : (loadChunk bs s).ChunkWritten := by
  have hlen := length_take_fbSize bs
  have h : (loadChunk bs s).flen.toNat = (bs.take fbSize).length := by
    rw [loadChunk_eq]
    exact Nat.mod_eq_of_lt (by omega)
  refine State.written_of_holds (bs := bs.take fbSize) h.le fun i hi => ?_
  rw [State.buf_fb, loadChunk_eq, Memory.read?_writes_zero, if_pos hi]

/-- `DECODE` of a written chunk leaves the model's count. -/
theorem decodeOp_unwrittenReads_of_written (c : Config) {s : State} (h : s.ChunkWritten) :
    (decodeOp c s).unwrittenReads = s.unwrittenReads := by
  rw [decodeOp_unwrittenReads, if_pos]
  rw [State.written_iff]
  intro i hi
  have hr := decodeReach_le c s.chunk
  rw [State.chunk, State.length_memReads] at hr
  exact (State.written_iff _ _ _ _).1 h i (by rw [State.chunk] at hi; omega)

theorem readStatus_eq (s : State) : readStatus s = { s with dout := zext32 (s.status &&& 0x07) } := rfl

/-- Everything handing over a chunk can do (spec/70_reset_and_hazards.md R227). -/
theorem handOverChunk_cases (c : Config) (bs : List Byte) (s : State) :
    (∃ e, decodeChunk c (bs.take fbSize) = .err e ∧ handOverChunk c bs s = { s with
      fb := s.fb.writes 0 (bs.take fbSize), flen := BitVec.ofNat 17 (bs.take fbSize).length,
      status := e.toCode.code.setWidth 8, dout := e.toCode.code.setWidth 32 }) ∨
    (∃ p, decodeChunk c (bs.take fbSize) = .ok p ∧ handOverChunk c bs s = { s with
      fb := s.fb.writes 0 (bs.take fbSize), flen := BitVec.ofNat 17 (bs.take fbSize).length,
      ptype := p.ptype, dlen := BitVec.ofNat 16 p.data.length, olen := BitVec.ofNat 8 p.opt.length,
      data := s.data.writes 0 p.data, opt := s.opt.writes 0 p.opt, status := 0, dout := 0 }) := by
  have hn := decodeOp_unwrittenReads_of_written c (chunkWritten_loadChunk bs s)
  rcases decodeOp_cases c (loadChunk bs s) with ⟨e, h, hq⟩ | ⟨p, h, hq⟩
  · refine .inl ⟨e, by rw [← chunk_loadChunk bs s]; exact h, ?_⟩
    have hs : zext32 (e.toCode.code.setWidth 8 &&& (0x07 : Byte)) = e.toCode.code.setWidth 32 := by cases e <;> decide
    rw [handOverChunk, hq, hn, readStatus_eq, hs]
    rfl
  · refine .inr ⟨p, by rw [← chunk_loadChunk bs s]; exact h, ?_⟩
    have hs : zext32 ((0 : Byte) &&& 0x07) = 0 := by decide
    rw [handOverChunk, hq, hn, readStatus_eq, hs]
    rfl

end Sys2Proof.Machine
end

