-- ==== Sys2Proof/Laws/Words.lean ====
section
/-!
SUPPORT. The fields of an assembled command word, and a word put together again from its fields (spec/30_encoding.md
R71, R73). The arithmetic is stated on natural numbers first.
-/

namespace Sys2Proof

theorem wordSum_op {op a v : Nat} (h₁ : op < 32) (h₂ : a < 131072) (h₃ : v < 256) :
    (op * 134217728 + a * 256 + v) / 134217728 % 32 = op := by omega

theorem wordSum_z {op a v : Nat} (h₂ : a < 131072) (h₃ : v < 256) :
    (op * 134217728 + a * 256 + v) / 33554432 % 4 = 0 := by omega

theorem wordSum_a {op a v : Nat} (h₂ : a < 131072) (h₃ : v < 256) :
    (op * 134217728 + a * 256 + v) / 256 % 131072 = a := by omega

theorem wordSum_v {op a v : Nat} (h₃ : v < 256) : (op * 134217728 + a * 256 + v) / 1 % 256 = v := by omega

theorem wordSum_fields {w : Nat} (h : w < 4294967296) (hz : w / 33554432 % 4 = 0) :
    w / 134217728 % 32 * 134217728 + w / 256 % 131072 * 256 + w / 1 % 256 = w := by omega

/-- `Z` = `W[26:25]` (R71). -/
def zField (w : Word) : BitVec 2 := w.extractLsb' 25 2

theorem toNat_opField (w : Word) : (opField w).toNat = w.toNat / 134217728 % 32 := by
  rw [opField, BitVec.extractLsb'_toNat, Nat.shiftRight_eq_div_pow]

theorem toNat_zField (w : Word) : (zField w).toNat = w.toNat / 33554432 % 4 := by
  rw [zField, BitVec.extractLsb'_toNat, Nat.shiftRight_eq_div_pow]

theorem toNat_aField (w : Word) : (aField w).toNat = w.toNat / 256 % 131072 := by
  rw [aField, BitVec.extractLsb'_toNat, Nat.shiftRight_eq_div_pow]

theorem toNat_vField (w : Word) : (vField w).toNat = w.toNat / 1 % 256 := by
  rw [vField, BitVec.extractLsb'_toNat, Nat.shiftRight_eq_div_pow]

theorem toNat_commandWord (op : BitVec 5) (a : Word17) (v : Byte) :
    (commandWord op a v).toNat = op.toNat * 134217728 + a.toNat * 256 + v.toNat := by
  have h : ∀ o x y : Nat, o < 32 → x < 131072 → y < 256 →
      (((o % 4294967296 * 134217728) % 4294967296 + (x % 4294967296 * 256) % 4294967296) % 4294967296 +
        y % 4294967296) % 4294967296 = o * 134217728 + x * 256 + y := by intro o x y _ _ _; omega
  rw [commandWord, BitVec.toNat_add, BitVec.toNat_add, BitVec.toNat_shiftLeft, BitVec.toNat_shiftLeft,
    BitVec.toNat_setWidth, BitVec.toNat_setWidth, BitVec.toNat_setWidth, Nat.shiftLeft_eq, Nat.shiftLeft_eq]
  exact h _ _ _ op.isLt a.isLt v.isLt

@[simp] theorem opField_commandWord (op : BitVec 5) (a : Word17) (v : Byte) : opField (commandWord op a v) = op := by
  apply BitVec.eq_of_toNat_eq
  rw [toNat_opField, toNat_commandWord]
  exact wordSum_op op.isLt a.isLt v.isLt

@[simp] theorem zField_commandWord (op : BitVec 5) (a : Word17) (v : Byte) : zField (commandWord op a v) = 0 := by
  apply BitVec.eq_of_toNat_eq
  rw [toNat_zField, toNat_commandWord]
  exact wordSum_z a.isLt v.isLt

@[simp] theorem aField_commandWord (op : BitVec 5) (a : Word17) (v : Byte) : aField (commandWord op a v) = a := by
  apply BitVec.eq_of_toNat_eq
  rw [toNat_aField, toNat_commandWord]
  exact wordSum_a a.isLt v.isLt

@[simp] theorem vField_commandWord (op : BitVec 5) (a : Word17) (v : Byte) : vField (commandWord op a v) = v := by
  apply BitVec.eq_of_toNat_eq
  rw [toNat_vField, toNat_commandWord]
  exact wordSum_v v.isLt

/-- A word whose `Z` is 0 is the word of its fields. -/
theorem commandWord_fields {w : Word} (hz : zField w = 0) : commandWord (opField w) (aField w) (vField w) = w := by
  apply BitVec.eq_of_toNat_eq
  rw [toNat_commandWord, toNat_opField, toNat_aField, toNat_vField]
  exact wordSum_fields w.isLt (by rw [← toNat_zField, hz]; rfl)

/-- A word is determined by its four fields. -/
theorem word_ext {w w' : Word} (ho : opField w = opField w') (hz : zField w = zField w')
    (ha : aField w = aField w') (hv : vField w = vField w') : w = w' := by
  apply BitVec.eq_of_toNat_eq
  have e₁ := congrArg BitVec.toNat ho
  have e₂ := congrArg BitVec.toNat hz
  have e₃ := congrArg BitVec.toNat ha
  have e₄ := congrArg BitVec.toNat hv
  rw [toNat_opField, toNat_opField] at e₁
  rw [toNat_zField, toNat_zField] at e₂
  rw [toNat_aField, toNat_aField] at e₃
  rw [toNat_vField, toNat_vField] at e₄
  have key : ∀ x y : Nat, x < 4294967296 → y < 4294967296 → x / 134217728 % 32 = y / 134217728 % 32 →
      x / 33554432 % 4 = y / 33554432 % 4 → x / 256 % 131072 = y / 256 % 131072 → x / 1 % 256 = y / 1 % 256 →
      x = y := by
    intro x y _ _ _ _ _ _
    omega
  exact key _ _ w.isLt w'.isLt e₁ e₂ e₃ e₄

theorem opField_and (w z : Word) : opField (w &&& z) = opField w &&& opField z := by
  ext i hi; simp [opField, BitVec.getElem_extractLsb']

theorem zField_and (w z : Word) : zField (w &&& z) = zField w &&& zField z := by
  ext i hi; simp [zField, BitVec.getElem_extractLsb']

theorem aField_and (w z : Word) : aField (w &&& z) = aField w &&& aField z := by
  ext i hi; simp [aField, BitVec.getElem_extractLsb']

theorem vField_and (w z : Word) : vField (w &&& z) = vField w &&& vField z := by
  ext i hi; simp [vField, BitVec.getElem_extractLsb']

/-- Some bits of a word are 0 exactly when they are 0 field by field. -/
theorem and_eq_zero_iff (w z : Word) : w &&& z = 0 ↔
    opField w &&& opField z = 0 ∧ zField w &&& zField z = 0 ∧ aField w &&& aField z = 0 ∧
      vField w &&& vField z = 0 := by
  rw [← opField_and, ← zField_and, ← aField_and, ← vField_and]
  constructor
  · intro h; rw [h]; exact ⟨rfl, rfl, rfl, rfl⟩
  · rintro ⟨h₁, h₂, h₃, h₄⟩
    exact word_ext (h₁.trans rfl) (h₂.trans rfl) (h₃.trans rfl) (h₄.trans rfl)

/-- A 16-bit operand leaves `A[16]` at 0. -/
theorem setWidth16_and_top (n : Word16) : n.setWidth 17 &&& (0x10000 : Word17) = 0 := by
  apply BitVec.eq_of_getLsbD_eq
  intro i hi
  have h : ∀ j : Fin 17, (0x10000 : Word17).getLsbD j = decide (j.val = 16) := by decide
  have := h ⟨i, hi⟩
  simp only [BitVec.getLsbD_and, this, BitVec.getLsbD_setWidth]
  by_cases h16 : i = 16
  · subst h16; simp
  · simp [h16]

/-- An 8-bit operand leaves `A[16:8]` at 0. -/
theorem setWidth8_and_top (n : Byte) : n.setWidth 17 &&& (0x1FF00 : Word17) = 0 := by
  apply BitVec.eq_of_getLsbD_eq
  intro i hi
  have h : ∀ j : Fin 17, (0x1FF00 : Word17).getLsbD j = decide (8 ≤ j.val) := by decide
  have := h ⟨i, hi⟩
  simp only [BitVec.getLsbD_and, this, BitVec.getLsbD_setWidth]
  by_cases h8 : 8 ≤ i
  · simp [h8]
  · simp [h8]

/-- An `A` whose bit 16 is 0 is its own 16-bit part. -/
theorem setWidth16_of_top {a : Word17} (h : a &&& 0x10000 = 0) : (a.setWidth 16).setWidth 17 = a := by
  apply BitVec.eq_of_getLsbD_eq
  intro i hi
  simp only [BitVec.getLsbD_setWidth]
  by_cases h16 : i = 16
  · subst h16
    have := congrArg (BitVec.getLsbD · 16) h
    simp at this ⊢
    simpa using this
  · simp [hi, show i < 16 by omega]

/-- An `A` whose bits 16:8 are 0 is its own 8-bit part. -/
theorem setWidth8_of_top {a : Word17} (h : a &&& 0x1FF00 = 0) : (a.setWidth 8).setWidth 17 = a := by
  apply BitVec.eq_of_getLsbD_eq
  intro i hi
  simp only [BitVec.getLsbD_setWidth]
  by_cases h8 : 8 ≤ i
  · have hb : ∀ j : Fin 17, (0x1FF00 : Word17).getLsbD j = decide (8 ≤ j.val) := by decide
    have e := congrArg (BitVec.getLsbD · i) h
    simp only [BitVec.getLsbD_and, hb ⟨i, hi⟩, h8, decide_true, Bool.and_true] at e
    rw [e]
    simp [show ¬ i < 8 by omega]
  · simp [hi, show i < 8 by omega]

/-! ### The check of `match` and `mask` -/

/-- The five bits of `OP` in place. -/
def opMask : Word := 0xF8000000

/-- A word masked to its `OP` bits is the bare opcode word. -/
theorem and_opMask (w : Word) : w &&& opMask = commandWord (opField w) 0 0 := by
  apply BitVec.eq_of_getLsbD_eq
  intro i hi
  have h : (commandWord (opField w) 0 0) = (opField w).setWidth 32 <<< 27 := by
    apply BitVec.eq_of_toNat_eq
    rw [toNat_commandWord, BitVec.toNat_shiftLeft, BitVec.toNat_setWidth, Nat.shiftLeft_eq]
    have := (opField w).isLt
    have h₁ : (opField w).toNat % 2 ^ 32 = (opField w).toNat := Nat.mod_eq_of_lt (by omega)
    rw [h₁]
    have h₂ : ∀ n : Nat, n < 32 → n * 134217728 + 0 * 256 + 0 = n * 134217728 % 4294967296 := by intro n hn; omega
    exact h₂ _ this
  rw [h]
  simp only [BitVec.getLsbD_and, BitVec.getLsbD_shiftLeft, BitVec.getLsbD_setWidth, opField,
    BitVec.getLsbD_extractLsb']
  have hm : opMask.getLsbD i = decide (27 ≤ i) := by
    have : ∀ j : Fin 32, opMask.getLsbD j = decide (27 ≤ j.val) := by decide
    exact this ⟨i, hi⟩
  rw [hm]
  by_cases h27 : 27 ≤ i
  · have h₁ : 27 + (i - 27) = i := by omega
    have h₂ : i - 27 < 32 := by omega
    have h₃ : i - 27 < 5 := by omega
    simp [h27, h₁, h₂, h₃, hi, show ¬ i < 27 by omega]
  · simp [h27, show i < 27 by omega]

/-- What a row of R73 demands, when its mask is the `OP` bits and the must-be-zero bits `z` and its pattern the bare
opcode word: the word's `OP` is the row's, and the must-be-zero bits are 0. -/
theorem and_mask_eq_iff (w z : Word) (op : BitVec 5) (hz : z &&& opMask = 0) :
    w &&& (opMask ||| z) = commandWord op 0 0 ↔ opField w = op ∧ w &&& z = 0 := by
  constructor
  · intro h
    have h₁ : (w &&& (opMask ||| z)) &&& opMask = commandWord op 0 0 &&& opMask := by rw [h]
    have h₂ : (w &&& (opMask ||| z)) &&& opMask = w &&& opMask := by
      ext i hi
      have := congrArg (BitVec.getLsbD · i) hz
      simp at this ⊢
      cases hw : w.getLsbD i <;> cases ho : opMask.getLsbD i <;> simp_all
    have hop : opField w = op := by
      rw [h₂, and_opMask, and_opMask, opField_commandWord] at h₁
      simpa using congrArg opField h₁
    refine ⟨hop, ?_⟩
    have h₃ : (w &&& (opMask ||| z)) = (w &&& opMask) ||| (w &&& z) := by
      ext i hi; simp [Bool.and_or_distrib_left]
    rw [h₃, and_opMask, hop] at h
    have h₄ : commandWord op 0 0 &&& z = 0 := by
      rw [← hop, ← and_opMask]
      ext i hi
      have := congrArg (BitVec.getLsbD · i) hz
      simp at this ⊢
      intro _ _; simp_all
    ext i hi
    have e₁ := congrArg (BitVec.getLsbD · i) h
    have e₂ := congrArg (BitVec.getLsbD · i) h₄
    simp at e₁ e₂ ⊢
    intro hw
    by_contra hzi
    simp_all
  · rintro ⟨rfl, h⟩
    rw [← and_opMask]
    ext i hi
    have := congrArg (fun x : Word => x[i]) h
    simp only [BitVec.getElem_and, BitVec.getElem_or, BitVec.ofNat_eq_ofNat, BitVec.getElem_zero] at this ⊢
    rw [Bool.and_or_distrib_left, this, Bool.or_false]

/-- A command word passes the check of its row when its operands leave the row's must-be-zero bits `z` at 0. -/
theorem commandWord_and_mask {op : BitVec 5} {a : Word17} {v : Byte} {z mask pattern : Word}
    (hm : mask = opMask ||| z) (hp : pattern = commandWord op 0 0) (hz : z &&& opMask = 0)
    (ha : a &&& aField z = 0) (hv : v &&& vField z = 0) : commandWord op a v &&& mask = pattern := by
  subst hm hp
  have ho : opField z = 0 := by
    have h := opField_and z opMask
    rw [hz] at h
    have h₁ : opField opMask = BitVec.allOnes 5 := by decide
    rw [h₁, BitVec.and_allOnes] at h
    exact h.symm.trans rfl
  rw [and_mask_eq_iff _ _ _ hz, opField_commandWord, and_eq_zero_iff]
  simp [ho, ha, hv]

/-- The word of a row's code and admissible operands decodes to what the row builds. -/
theorem decodeCommand_of_row {op : BitVec 5} {a : Word17} {v : Byte} {r : CommandRow} (z : Word)
    (hr : commandTable.find? (fun r' => r'.op == op) = some r) (hm : r.mask = opMask ||| z)
    (hp : r.pattern = commandWord op 0 0) (hz : z &&& opMask = 0) (ha : a &&& aField z = 0)
    (hv : v &&& vField z = 0) : decodeCommand (commandWord op a v) = .ok (r.build a v) := by
  have hc := commandWord_and_mask (a := a) (v := v) hm hp hz ha hv
  unfold decodeCommand
  rw [opField_commandWord, hr]
  dsimp only
  rw [if_pos hc, aField_commandWord, vField_commandWord]

/-- What decodes was found in its row and passed the row's check. -/
theorem decodeCommand_inv {w : Word} {i : Instr} (h : decodeCommand w = .ok i) :
    ∃ r, commandTable.find? (fun r' => r'.op == opField w) = some r ∧ w &&& r.mask = r.pattern ∧
      i = r.build (aField w) (vField w) := by
  simp only [decodeCommand] at h
  split at h
  · cases h
  · rename_i r hr
    split at h
    · rename_i hm
      cases h
      exact ⟨r, hr, hm, rfl⟩
    · cases h

end Sys2Proof
end

