-- ==== Sys2Proof/Laws/PerInstr.lean ====
section
/-!
SUPPORT. Per instruction, about its syntax: the encoding of a command carries the code of the row of its own mnemonic in
the opcode map and passes that row's check of `match` and `mask`; the encoding of a frame row begins with the sync byte.
-/

namespace Sys2Proof.Laws.OwnRow

/-- The word of a command is a word of its own row. -/
abbrev InRow (i : Instr) (w : Word) (r : CommandRow) : Prop :=
  r.mnemonic = i.mnemonic ∧ commandTable.find? (fun r' => r'.op == opField w) = some r ∧ w &&& r.mask = r.pattern

/-- What is said of every instruction. -/
def Statement (i : Instr) : Prop :=
  match encode i with
  | .command w => ∃ r, InRow i w r
  | .chunk bs => Machine.byteAt bs 0 = Machine.sync ∧ 7 ≤ bs.length
  | .reset => False

/-- The one argument all commands share: the row is found by its code, and the check passes because the operands leave
the must-be-zero bits `z` at 0. -/
theorem of_row {i : Instr} {op : BitVec 5} {a : Word17} {v : Byte} {r : CommandRow} (z : Word)
    (he : encode i = .command (commandWord op a v)) (hmn : r.mnemonic = i.mnemonic)
    (hr : commandTable.find? (fun r' => r'.op == op) = some r) (hm : r.mask = opMask ||| z)
    (hp : r.pattern = commandWord op 0 0) (hz : z &&& opMask = 0) (ha : a &&& aField z = 0)
    (hv : v &&& vField z = 0) : Statement i := by
  simp only [Statement, he]
  exact ⟨r, hmn, by rw [opField_commandWord]; exact hr, commandWord_and_mask hm hp hz ha hv⟩

theorem of_frame {i : Instr} {t h : Byte} {d o : List Byte} {b : Byte} (he : encode i = .chunk (frameBytes t h d o b)) :
    Statement i := by
  simp only [Statement, he, frameBytes, Machine.be16, Machine.byteAt_cons_zero, true_and]
  simp; omega

theorem nop : Statement .nop :=
  of_row 0x07FFFFFF rfl rfl rfl (by decide) (by decide) (by decide) (by decide) (by decide)

theorem crcClr : Statement .crcClr :=
  of_row 0x07FFFFFF rfl rfl rfl (by decide) (by decide) (by decide) (by decide) (by decide)

theorem crcUpd (v : Byte) : Statement (.crcUpd v) :=
  of_row 0x07FFFF00 rfl rfl rfl (by decide) (by decide) (by decide) (by decide) (BitVec.and_zero)

theorem crcUpdfb (a : Word17) : Statement (.crcUpdfb a) :=
  of_row 0x060000FF rfl rfl rfl (by decide) (by decide) (by decide) (BitVec.and_zero) (by decide)

theorem crcRd : Statement .crcRd :=
  of_row 0x07FFFFFF rfl rfl rfl (by decide) (by decide) (by decide) (by decide) (by decide)

theorem pktSettype (v : Byte) : Statement (.pktSettype v) :=
  of_row 0x07FFFF00 rfl rfl rfl (by decide) (by decide) (by decide) (by decide) (BitVec.and_zero)

theorem pktSetdlen (n : Word16) : Statement (.pktSetdlen n) :=
  of_row 0x070000FF rfl rfl rfl (by decide) (by decide) (by decide) (setWidth16_and_top _) (by decide)

theorem pktSetolen (v : Byte) : Statement (.pktSetolen v) :=
  of_row 0x07FFFF00 rfl rfl rfl (by decide) (by decide) (by decide) (by decide) (BitVec.and_zero)

theorem pktGettype : Statement .pktGettype :=
  of_row 0x07FFFFFF rfl rfl rfl (by decide) (by decide) (by decide) (by decide) (by decide)

theorem pktGetdlen : Statement .pktGetdlen :=
  of_row 0x07FFFFFF rfl rfl rfl (by decide) (by decide) (by decide) (by decide) (by decide)

theorem pktGetolen : Statement .pktGetolen :=
  of_row 0x07FFFFFF rfl rfl rfl (by decide) (by decide) (by decide) (by decide) (by decide)

theorem dataWr (a : Word16) (v : Byte) : Statement (.dataWr a v) :=
  of_row 0x07000000 rfl rfl rfl (by decide) (by decide) (by decide) (setWidth16_and_top _) (BitVec.and_zero)

theorem dataRd (a : Word16) : Statement (.dataRd a) :=
  of_row 0x070000FF rfl rfl rfl (by decide) (by decide) (by decide) (setWidth16_and_top _) (by decide)

theorem optWr (a v : Byte) : Statement (.optWr a v) :=
  of_row 0x07FF0000 rfl rfl rfl (by decide) (by decide) (by decide) (setWidth8_and_top _) (BitVec.and_zero)

theorem optRd (a : Byte) : Statement (.optRd a) :=
  of_row 0x07FF00FF rfl rfl rfl (by decide) (by decide) (by decide) (setWidth8_and_top _) (by decide)

theorem fbWr (a : Word17) (v : Byte) : Statement (.fbWr a v) :=
  of_row 0x06000000 rfl rfl rfl (by decide) (by decide) (by decide) (BitVec.and_zero) (BitVec.and_zero)

theorem fbRd (a : Word17) : Statement (.fbRd a) :=
  of_row 0x060000FF rfl rfl rfl (by decide) (by decide) (by decide) (BitVec.and_zero) (by decide)

theorem fbSetlen (n : Word17) : Statement (.fbSetlen n) :=
  of_row 0x060000FF rfl rfl rfl (by decide) (by decide) (by decide) (BitVec.and_zero) (by decide)

theorem fbGetlen : Statement .fbGetlen :=
  of_row 0x07FFFFFF rfl rfl rfl (by decide) (by decide) (by decide) (by decide) (by decide)

theorem encode : Statement .encode :=
  of_row 0x07FFFFFF rfl rfl rfl (by decide) (by decide) (by decide) (by decide) (by decide)

theorem decode : Statement .decode :=
  of_row 0x07FFFFFF rfl rfl rfl (by decide) (by decide) (by decide) (by decide) (by decide)

theorem statusRd : Statement .statusRd :=
  of_row 0x07FFFFFF rfl rfl rfl (by decide) (by decide) (by decide) (by decide) (by decide)

theorem frame (t h : Byte) (d o : List Byte) (b : Byte) : Statement (.frame t h d o b) := of_frame rfl

theorem frameRadioErp1 (h : Byte) (d o : List Byte) (b : Byte) : Statement (.frameRadioErp1 h d o b) := of_frame rfl

theorem frameResponse (h : Byte) (d o : List Byte) (b : Byte) : Statement (.frameResponse h d o b) := of_frame rfl

end Sys2Proof.Laws.OwnRow
end

