-- ==== Sys2Proof/Laws/Run.lean ====
section
/-!
SUPPORT. Running: one step more, one command list after another, everything a step can do; the invariant as a conjunction; and the sizes of a frame.
-/

namespace Sys2Proof.Machine

/-- One step more. -/
theorem run_succ (M : Host.Core) (n : Nat) {s t : M.State} (h : M.step s = .next t) : M.run (n + 1) s = M.run n t := by
  simp only [Host.Core.run, h]

variable {run : Instr → State → Host.Outcome State Fault Refusal}

@[simp] theorem execAllBy_nil (s : State) : execAllBy run [] s = .next s := rfl

theorem execAllBy_cons {i : Instr} {is : List Instr} {s t : State} (h : run i s = .next t) :
    execAllBy run (i :: is) s = execAllBy run is t := by
  rw [execAllBy, h]

/-- One command list after another. -/
theorem execAllBy_append (a b : List Instr) {s t : State} (h : execAllBy run a s = .next t) :
    execAllBy run (a ++ b) s = execAllBy run b t := by
  induction a generalizing s with
  | nil => cases h; rfl
  | cons i a ih =>
    simp only [execAllBy, List.cons_append] at *
    cases hi : run i s with
    | next u => rw [hi] at h; exact ih h
    | fault r => cases r
    | refused r => rw [hi] at h; cases h

theorem execAll_append (a b : List Instr) {s t : State} (h : execAll a s = .next t) :
    execAll (a ++ b) s = execAll b t :=
  execAllBy_append a b h

/-- Everything a step can do, whatever the meaning of the instructions and the configuration: idle at the end of the
list, run the decoded instruction, refuse a word, hand over a chunk that is no frame, or reset. -/
theorem stepBy_cases (run : Instr → State → Host.Outcome State Fault Refusal) (c : Config) (s : State) :
    (s.nextEvent? = none ∧ stepBy run c s = .next s) ∨
    (∃ e i, s.nextEvent? = some e ∧ decode e = .ok i ∧ stepBy run c s = run i s.advance) ∨
    (∃ w r, s.nextEvent? = some (.command w) ∧ decodeCommand w = .error r ∧
      stepBy run c s = .next { s with ip := s.ip + 1, status := 7 }) ∨
    (∃ bs r, s.nextEvent? = some (.chunk bs) ∧ decodeFrame bs = .error r ∧
      stepBy run c s = .next (handOverChunk c bs s.advance)) ∨
    (s.nextEvent? = some .reset ∧ stepBy run c s = .next (s.advance.resetBlock c)) := by
  cases he : s.nextEvent? with
  | none => exact .inl ⟨rfl, by rw [stepBy, he]; rfl⟩
  | some e =>
    cases e with
    | command w =>
      cases hd : decodeCommand w with
      | ok i => exact .inr (.inl ⟨_, i, rfl, hd, by simp only [stepBy, he, runEventBy, hd]⟩)
      | error r => exact .inr (.inr (.inl ⟨w, r, rfl, hd, by simp only [stepBy, he, runEventBy, hd]; rfl⟩))
    | chunk bs =>
      cases hd : decodeFrame bs with
      | ok i => exact .inr (.inl ⟨_, i, rfl, hd, by simp only [stepBy, he, runEventBy, hd]⟩)
      | error r =>
        exact .inr (.inr (.inr (.inl ⟨bs, r, rfl, hd, by simp only [stepBy, he, runEventBy, hd, rejectChunk]⟩)))
    | reset => exact .inr (.inr (.inr (.inr ⟨rfl, by simp only [stepBy, he, runEventBy, resetEvent]⟩)))

/-- The invariant, part by part. -/
theorem State.inv_iff (s : State) : s.Inv ↔
    s.data.wf = true ∧ s.opt.wf = true ∧ s.fb.wf = true ∧
    s.data.within 65536 = true ∧ s.opt.within 256 = true ∧ s.fb.within 65797 = true ∧
    s.flen.toNat ≤ 65797 ∧ s.status.toNat < 8 := by
  have e₁ : dataSize = 65536 := rfl
  have e₂ : optSize = 256 := rfl
  have e₃ : fbSize = 65797 := rfl
  simp only [State.Inv, State.wf, Bool.and_eq_true, decide_eq_true_eq, e₁, e₂, e₃, and_assoc]

theorem lengthsFit_iff (d o : List Byte) : lengthsFit d o = true ↔ d.length ≤ 65535 ∧ o.length ≤ 255 := by
  simp only [lengthsFit, Bool.and_eq_true, decide_eq_true_eq]
  rfl

theorem length_frameBytes (t h : Byte) (d o : List Byte) (b : Byte) :
    (frameBytes t h d o b).length = 7 + d.length + o.length := by
  simp only [frameBytes, be16, List.length_cons, List.length_append, List.length_nil]
  omega

/-- The frame of a Packet is the frame row with its two checksums. -/
theorem frameBytes_packet (c : Config) (p : Packet) :
    frameBytes p.ptype (crc8 c (packetHeader p)) p.data p.opt (crc8 c (p.data ++ p.opt)) = encodePacket c p := by
  rw [encodePacket_eq]
  rfl

end Sys2Proof.Machine
end

