-- ==== Sys2Proof/Tests/Slice0.lean ====
section
/-!
SUPPORT. Tests of single words, chunks and steps. Every expected result is written out from spec/ (the tables of
spec/30_encoding.md R73, spec/40_crc8.md R92 and the vectors of spec/95_test_vectors.md, named by their ids), and for
every statement with hypotheses a concrete case that meets them all.
-/

namespace Sys2Proof.Tests

open Sys2Proof.Machine

/-! ### What the checks of `WellFormed` refuse -/

theorem test_wf_rejects_erp1_as_generic : (Instr.frame 0x01 0 [] [] 0).wellFormed = false := by decide

theorem test_wf_rejects_response_as_generic : (Instr.frame 0x02 0 [] [] 0).wellFormed = false := by decide

theorem test_wf_rejects_long_data : (Instr.frame 0x05 0 (List.replicate 65536 0) [] 0).wellFormed = false := by
  simp only [Instr.wellFormed, lengthsFit, dlenMax, olenMax, List.length_replicate]
  decide

theorem test_wf_rejects_long_opt : (Instr.frameRadioErp1 0 [] (List.replicate 256 0) 0).wellFormed = false := by
  simp only [Instr.wellFormed, lengthsFit, dlenMax, olenMax, List.length_replicate]
  decide

theorem test_wf_rejects_long_response : (Instr.frameResponse 0 (List.replicate 65536 0) [] 0).wellFormed = false := by
  simp only [Instr.wellFormed, lengthsFit, dlenMax, olenMax, List.length_replicate]
  decide

theorem test_wf_accepts_longest : (Instr.frame 0xFF 0xDE (List.replicate 65535 0) (List.replicate 255 0) 0).wellFormed = true := by
  simp only [Instr.wellFormed, lengthsFit, dlenMax, olenMax, List.length_replicate]
  decide

/-! ### Words of the spec -/

theorem test_decode_nop : decodeCommand 0x00000000 = .ok .nop := rfl                                  -- A13
theorem test_decode_crc_clr : decodeCommand 0x08000000 = .ok .crcClr := rfl                           -- P1 0
theorem test_decode_crc_upd : decodeCommand 0x10000007 = .ok (.crcUpd 0x07) := rfl                    -- P1 2
theorem test_decode_crc_updfb : decodeCommand 0x18001300 = .ok (.crcUpdfb 19) := rfl                  -- P5 37
theorem test_decode_crc_rd : decodeCommand 0x20000000 = .ok .crcRd := rfl                             -- P1 5
theorem test_decode_settype : decodeCommand 0x40000005 = .ok (.pktSettype 0x05) := rfl                -- P2 0
theorem test_decode_setdlen : decodeCommand 0x48000700 = .ok (.pktSetdlen 7) := rfl                   -- P5 1
theorem test_decode_setolen : decodeCommand 0x50000007 = .ok (.pktSetolen 7) := rfl                   -- A15
theorem test_decode_gettype : decodeCommand 0x58000000 = .ok .pktGettype := rfl                       -- P3 14
theorem test_decode_getdlen : decodeCommand 0x60000000 = .ok .pktGetdlen := rfl                       -- A12
theorem test_decode_getolen : decodeCommand 0x68000000 = .ok .pktGetolen := rfl                       -- A15
theorem test_decode_data_wr : decodeCommand 0x80FFFFAB = .ok (.dataWr 65535 0xAB) := rfl              -- A5
theorem test_decode_data_rd : decodeCommand 0x88000000 = .ok (.dataRd 0) := rfl                       -- P3 16
theorem test_decode_opt_wr : decodeCommand 0x9000FFCD = .ok (.optWr 255 0xCD) := rfl                  -- A6
theorem test_decode_opt_rd : decodeCommand 0x98000000 = .ok (.optRd 0) := rfl                         -- A14
theorem test_decode_fb_wr : decodeCommand 0xA1010400 = .ok (.fbWr 65796 0x00) := rfl                  -- A3
theorem test_decode_fb_rd : decodeCommand 0xA8001400 = .ok (.fbRd 20) := rfl                          -- P5 19
theorem test_decode_fb_setlen : decodeCommand 0xB1010500 = .ok (.fbSetlen 65797) := rfl               -- A1
theorem test_decode_fb_getlen : decodeCommand 0xB8000000 = .ok .fbGetlen := rfl                       -- P2 5
theorem test_decode_encode : decodeCommand 0xC0000000 = .ok .encode := rfl                            -- P2 4
theorem test_decode_decode : decodeCommand 0xC8000000 = .ok .decode := rfl                            -- P3 9
theorem test_decode_status_rd : decodeCommand 0xD0000000 = .ok .statusRd := rfl                       -- P3 10

/-- The smallest frame (V6), the empty Packet's 7 bytes (V3), and the two named types (V20, V23). -/
theorem test_decode_frame :
    decodeFrame [0x55, 0x00, 0x01, 0x00, 0x05, 0x70, 0x03, 0x09] = .ok (.frame 0x05 0x70 [0x03] [] 0x09) ∧
    decodeFrame [0x55, 0x00, 0x00, 0x00, 0x05, 0x1B, 0x00] = .ok (.frame 0x05 0x1B [] [] 0x00) := ⟨rfl, rfl⟩

theorem test_decode_frame_erp1 :
    decodeFrame [0x55, 0x00, 0x07, 0x07, 0x01, 0x7A, 0xF6, 0x50, 0x01, 0x02, 0x03, 0x04, 0x30,
      0x01, 0xFF, 0xFF, 0xFF, 0xFF, 0x2D, 0x00, 0xF9] =
    .ok (.frameRadioErp1 0x7A [0xF6, 0x50, 0x01, 0x02, 0x03, 0x04, 0x30] [0x01, 0xFF, 0xFF, 0xFF, 0xFF, 0x2D, 0x00] 0xF9) := rfl

theorem test_decode_frame_response :
    decodeFrame [0x55, 0x00, 0x02, 0x00, 0x02, 0xD8, 0x55, 0x55, 0xE1] = .ok (.frameResponse 0xD8 [0x55, 0x55] [] 0xE1) := rfl

/-- The document's own five bytes (S1, R61), read by the fields of a frame: sync, the two lengths, the type, and the frame's
21 bytes with the body checksum at offset 20. -/
theorem test_frame_example :
    byteAt [0x55, 0x00, 0x07, 0x07, 0x01] 0 = sync ∧ chunkDlen [0x55, 0x00, 0x07, 0x07, 0x01] = 7 ∧
    chunkOlen [0x55, 0x00, 0x07, 0x07, 0x01] = 7 ∧ byteAt [0x55, 0x00, 0x07, 0x07, 0x01] 4 = typeRadioErp1 ∧
    bodyEnd [0x55, 0x00, 0x07, 0x07, 0x01] = 20 := by decide

/-- A7 to A11: words of no row. -/
theorem test_decode_illegal_words :
    decodeCommand 0xF8000000 = .error (.unassignedOp 0x1F) ∧ decodeCommand 0x00000001 = .error (.mustBeZero "NOP") ∧
    decodeCommand 0x49000000 = .error (.mustBeZero "PKT.SETDLEN") ∧ decodeCommand 0x02000000 = .error (.mustBeZero "NOP") ∧
    decodeCommand 0x28000000 = .error (.unassignedOp 0x05) := ⟨rfl, rfl, rfl, rfl, rfl⟩

/-- Chunks that are not one frame: too short a header, leading noise (V19), a cut frame (V18), a second frame (V14). -/
theorem test_decode_no_frame :
    decodeFrame [0x55, 0x00, 0x01] = .error .shortHeader ∧
    decodeFrame [0x00, 0x55, 0x00, 0x01, 0x00, 0x05, 0x70, 0x03, 0x09] = .error .noSync ∧
    decodeFrame [0x55, 0x00, 0x01, 0x01, 0x7E, 0x03, 0xAA, 0xBB] = .error .wrongLength ∧
    decodeFrame [0x55, 0x00, 0x01, 0x00, 0x05, 0x70, 0x03, 0x09, 0x55, 0x00, 0x01, 0x00, 0x05, 0x70, 0x03, 0x09] =
      .error .wrongLength := ⟨rfl, rfl, rfl, rfl⟩

/-- `match` and `mask` of every row of R73, as the opcode table of the spec prints them, in its order. -/
theorem test_command_table_is_the_opcode_map :
    commandTable.map (fun r => (r.mnemonic, r.pattern.toNat, r.mask.toNat)) =
    [("NOP", 0x00000000, 0xFFFFFFFF), ("CRC.CLR", 0x08000000, 0xFFFFFFFF), ("CRC.UPD", 0x10000000, 0xFFFFFF00),
     ("CRC.UPDFB", 0x18000000, 0xFE0000FF), ("CRC.RD", 0x20000000, 0xFFFFFFFF)] ++
    [("PKT.SETTYPE", 0x40000000, 0xFFFFFF00), ("PKT.SETDLEN", 0x48000000, 0xFF0000FF),
     ("PKT.SETOLEN", 0x50000000, 0xFFFFFF00), ("PKT.GETTYPE", 0x58000000, 0xFFFFFFFF),
     ("PKT.GETDLEN", 0x60000000, 0xFFFFFFFF), ("PKT.GETOLEN", 0x68000000, 0xFFFFFFFF)] ++
    [("DATA.WR", 0x80000000, 0xFF000000), ("DATA.RD", 0x88000000, 0xFF0000FF),
     ("OPT.WR", 0x90000000, 0xFFFF0000), ("OPT.RD", 0x98000000, 0xFFFF00FF)] ++
    [("FB.WR", 0xA0000000, 0xFE000000), ("FB.RD", 0xA8000000, 0xFE0000FF),
     ("FB.SETLEN", 0xB0000000, 0xFE0000FF), ("FB.GETLEN", 0xB8000000, 0xFFFFFFFF)] ++
    [("ENCODE", 0xC0000000, 0xFFFFFFFF), ("DECODE", 0xC8000000, 0xFFFFFFFF), ("STATUS.RD", 0xD0000000, 0xFFFFFFFF)] := rfl

/-- The rows of the opcode table through the host's numbering: a command, and the frame rows with every bit above 40 zero. -/
theorem test_table_words :
    decodeTableWord 32 0xD0000000 = some .statusRd ∧ decodeTableWord 40 0x5500000000 = some (.frame 0 0 [] [] 0) ∧
    decodeTableWord 40 0x5500000001 = some (.frameRadioErp1 0 [] [] 0) ∧
    decodeTableWord 40 0x5500000002 = some (.frameResponse 0 [] [] 0) := by decide

/-! ### Layer F -/

/-- One bit of a division by the polynomial `0x07` (spec/40_crc8.md R92). -/
def shiftStep (x : Byte) : Byte := if x.msb then (x <<< 1) ^^^ 0x07 else x <<< 1

/-- Every entry of the table is the remainder R92 says it is. -/
theorem test_t07_is_the_polynomial_table : ∀ i : Byte, t07 i =
    shiftStep (shiftStep (shiftStep (shiftStep (shiftStep (shiftStep (shiftStep (shiftStep i))))))) := by decide +kernel

theorem test_crc8_check_value :
    crc8 config [0x31, 0x32, 0x33, 0x34, 0x35, 0x36, 0x37, 0x38, 0x39] = 0xF4 := by decide               -- K1

theorem test_crc8_two_bytes : crc8 config [0x01, 0x00] = 0x15 ∧ crc8 config [0xFF, 0xFF] = 0x24 := by decide  -- C8, C10

theorem test_encode_split : encodePacket config ⟨0x7E, [0xAA], [0xBB]⟩ =
    [0x55, 0x00, 0x01, 0x01, 0x7E, 0x03, 0xAA, 0xBB, 0xB2] := by decide                                  -- E6

theorem test_encode_empty : encodePacket config ⟨0x05, [], []⟩ = [0x55, 0x00, 0x00, 0x00, 0x05, 0x1B, 0x00] := by
  decide                                                                                                 -- E2

/-- The head of the frame of 300 bytes: the data length is big-endian (E9). -/
theorem test_encode_big_endian :
    (encodePacket config ⟨0x01, List.replicate 300 0x00, []⟩).take 6 = [0x55, 0x01, 0x2C, 0x00, 0x01, 0xA8] := by
  decide +kernel

/-- V1 to V5: the order of the first three checks. -/
theorem test_decode_order :
    decodeChunk config [] = .err .framingError ∧ decodeChunk config [0xAA] = .err .framingError ∧
    decodeChunk config [0x55, 0x00, 0x00, 0x00, 0x05, 0x1B, 0x00] = .err .framingError ∧
    decodeChunk config [0xAA, 0x00, 0x01, 0x00, 0x05, 0x00, 0x03, 0x09] = .err .syncError ∧
    decodeChunk config [0x55, 0xFF, 0xFF, 0x00, 0x05, 0x00, 0x03, 0x09] = .err .headerChecksumError := by decide

/-- V10, V18, V11, V12, V17: lengths and the body checksum. -/
theorem test_decode_length_and_body :
    decodeChunk config [0x55, 0x00, 0x02, 0x00, 0x05, 0xCD, 0x03, 0x09] = .err .lengthError ∧
    decodeChunk config [0x55, 0x00, 0x01, 0x01, 0x7E, 0x03, 0xAA, 0xBB] = .err .lengthError ∧
    decodeChunk config [0x55, 0x00, 0x01, 0x00, 0x05, 0x70, 0x02, 0x09] = .err .bodyChecksumError ∧
    decodeChunk config [0x55, 0x00, 0x01, 0x00, 0x05, 0x70, 0x03, 0xFF] = .err .bodyChecksumError ∧
    decodeChunk config [0x55, 0x00, 0x00, 0x00, 0x05, 0x1B, 0x01, 0xFF] = .err .bodyChecksumError := by decide

/-- V13, V15, V16, V24: successes. -/
theorem test_decode_success :
    decodeChunk config [0x55, 0x00, 0x01, 0x00, 0x05, 0x70, 0x03, 0x09, 0xDE, 0xAD] = .ok ⟨0x05, [0x03], []⟩ ∧
    decodeChunk config [0x55, 0x00, 0x00, 0x00, 0x05, 0x1B, 0x00, 0xFF] = .ok ⟨0x05, [], []⟩ ∧
    decodeChunk config [0x55, 0x00, 0x00, 0x01, 0x01, 0x12, 0x11, 0x77] = .ok ⟨0x01, [], [0x11]⟩ ∧
    decodeChunk config [0x55, 0x00, 0x01, 0x01, 0x7E, 0x03, 0xAA, 0xBB, 0xB2] = .ok ⟨0x7E, [0xAA], [0xBB]⟩ := by decide

/-! ### One step -/

/-- A state whose host presents one event next. -/
def given (e : HostEvent) (s : State) : State := { s with script := [e], ip := 0 }

/-- The state a command word leads to. -/
def after (w : Word) (s : State) : Option State :=
  match step (given (.command w) s) with
  | .next t => some t
  | .fault _ => none
  | .refused _ => none

/-- The state a chunk leads to. -/
def afterChunk (bs : List Byte) (s : State) : Option State :=
  match step (given (.chunk bs) s) with
  | .next t => some t
  | .fault _ => none
  | .refused _ => none

/-- The frame of V6 in the frame buffer. -/
def v6Cells : Memory := [(0, 0x55), (1, 0x00), (2, 0x01), (3, 0x00), (4, 0x05), (5, 0x70), (6, 0x03), (7, 0x09)]

/-- V6 loaded, nothing decoded yet. -/
def loaded : State := { State.reset with fb := v6Cells, flen := 8, status := 5 }

/-- The Packet of V6 in the registers and `DATA`. -/
def packed : State := { State.reset with ptype := 0x05, dlen := 1, olen := 0, data := [(0, 0x03)], status := 3 }

theorem test_step_nop : after 0x00000000 loaded = some { loaded with script := [.command 0], ip := 1 } := by decide  -- A13
theorem test_step_crc_clr : (after 0x08000000 { loaded with crc := 0x7A }).map (·.crc) = some 0x00 := by decide       -- P1 0
theorem test_step_crc_upd : (after 0x10000007 { loaded with crc := 0x15 }).map (·.crc) = some 0x7E := by decide       -- P1 3
theorem test_step_crc_updfb : (after 0x18000700 { State.reset with crc := 0xCC, fb := [(7, 0x50)] }).map (·.crc) =
    some 0xDD := by decide                                                                                          -- P5 25
theorem test_step_crc_updfb_outside : (after 0x19010500 State.reset).map (fun t => (t.crc, t.status)) =
    some (0x00, 0x06) := by decide                                                                                  -- A18
theorem test_step_crc_rd : (after 0x20000000 { loaded with crc := 0x7A }).map (·.dout) = some 0x0000007A := by decide -- P1 5
theorem test_step_settype : (after 0x40000005 State.reset).map (·.ptype) = some 0x05 := by decide                     -- P2 0
theorem test_step_setdlen : (after 0x48000700 State.reset).map (·.dlen) = some 7 := by decide                         -- P5 1
theorem test_step_setolen : (after 0x50000007 State.reset).map (·.olen) = some 7 := by decide                         -- A15
theorem test_step_gettype : (after 0x58000000 packed).map (·.dout) = some 0x00000005 := by decide                     -- P3 14
theorem test_step_getdlen : (after 0x60000000 { State.reset with dlen := 300 }).map (·.dout) = some 0x0000012C := by
  decide                                                                                                            -- A12
theorem test_step_getolen : (after 0x68000000 { State.reset with olen := 7 }).map (·.dout) = some 0x00000007 := by
  decide                                                                                                            -- A15
theorem test_step_data_wr : (after 0x80FFFFAB State.reset).map (·.data) = some [(65535, 0xAB)] := by decide           -- A5
theorem test_step_data_rd : (after 0x88000000 packed).map (·.dout) = some 0x00000003 := by decide                     -- P3 16
theorem test_step_opt_wr : (after 0x9000FFCD State.reset).map (·.opt) = some [(255, 0xCD)] := by decide               -- A6
theorem test_step_opt_rd : (after 0x98000000 { State.reset with opt := [(0, 0x01)] }).map (·.dout) =
    some 0x00000001 := by decide                                                                                    -- A14
theorem test_step_fb_wr : (after 0xA1010400 State.reset).map (fun t => (t.fb, t.status)) = some ([(65796, 0x00)], 0x00) := by
  decide                                                                                                            -- A3
theorem test_step_fb_wr_outside : (after 0xA1010500 State.reset).map (fun t => (t.fb, t.status)) = some ([], 0x06) := by
  decide                                                                                                            -- A4
theorem test_step_fb_rd : (after 0xA8000500 loaded).map (·.dout) = some 0x00000070 := by decide                       -- P2 6
theorem test_step_fb_setlen : (after 0xB1010500 loaded).map (fun t => (t.flen, t.status)) = some (65797, 0x05) := by
  decide                                                                                                            -- A1
theorem test_step_fb_setlen_outside : (after 0xB1010600 loaded).map (fun t => (t.flen, t.status)) = some (8, 0x06) := by
  decide                                                                                                            -- A2
theorem test_step_fb_getlen : (after 0xB8000000 { State.reset with flen := 65797 }).map (·.dout) = some 0x00010105 := by
  decide                                                                                                            -- P6 8
theorem test_step_encode : (after 0xC0000000 packed).map (fun t => (t.fb, t.flen, t.status)) =
    some (v6Cells, 8, 0x00) := by decide                                                                            -- P2 4
theorem test_step_decode : (after 0xC8000000 loaded).map (fun t => (t.ptype, t.dlen, t.data, t.status)) =
    some (0x05, 1, [(0, 0x03)], 0x00) := by decide                                                               -- P3 12
theorem test_step_decode_spoilt :
    (after 0xC8000000 { loaded with fb := Memory.write v6Cells 7 0xFF, status := 0 }).map (fun t => (t.ptype, t.data, t.status)) =
    some (0x00, [], 0x05) := by decide                                                                              -- P3 9
theorem test_step_status_rd : (after 0xD0000000 loaded).map (fun t => (t.dout, t.status)) = some (0x00000005, 0x05) := by
  decide                                                                                                            -- P3 10, 11
theorem test_step_illegal : (after 0x49000000 packed).map (fun t => (t.dlen, t.status)) = some (1, 0x07) := by decide  -- A9

/-- A frame row: the chunk V6 handed over at reset ends as P3 does. -/
theorem test_step_frame :
    (afterChunk [0x55, 0x00, 0x01, 0x00, 0x05, 0x70, 0x03, 0x09] State.reset).map
      (fun t => (t.ptype, t.data, t.fb, t.status)) = some (0x05, [(0, 0x03)], v6Cells, 0x00) := by decide

/-- The scenario S1 (V21): a radio telegram with a wrong trailing byte is a body checksum error. -/
theorem test_step_frame_erp1 :
    (afterChunk [0x55, 0x00, 0x07, 0x07, 0x01, 0x7A, 0xF6, 0x50, 0x01, 0x02, 0x03, 0x04, 0x30,
      0x01, 0xFF, 0xFF, 0xFF, 0xFF, 0x2D, 0x00, 0xF8] State.reset).map (fun t => (t.ptype, t.status, t.dout)) =
    some (0x00, 0x05, 0x00000005) := by decide +kernel

theorem test_step_frame_response :
    (afterChunk [0x55, 0x00, 0x02, 0x00, 0x02, 0xD8, 0x55, 0x55, 0xE1] State.reset).map
      (fun t => (t.ptype, t.data, t.status)) = some (0x02, [(0, 0x55), (1, 0x55)], 0x00) := by decide               -- V23

/-- V18 as a chunk: no frame, and `DECODE` says `LengthError`. -/
theorem test_step_cut_chunk :
    (afterChunk [0x55, 0x00, 0x01, 0x01, 0x7E, 0x03, 0xAA, 0xBB] State.reset).map (fun t => (t.flen, t.status)) =
    some (8, 0x04) := by decide

/-- The reset event loses every byte (R210). -/
theorem test_step_reset : step (given .reset loaded) = .next { State.reset with script := [.reset], ip := 1 } := rfl

/-- A row's word is the very next thing a step runs, from reset too. -/
theorem test_with_fetch_word :
    step (State.reset.withFetchWord 32 0x40000005) =
      .next { State.reset with script := [.command 0x40000005], ip := 1, ptype := 0x05 } := rfl

/-! ### The text of a command (R76) -/

theorem test_command_text :
    commandText (.fbWr 7 0xFF) = "FB.WR 7, 0xFF" ∧ commandText .statusRd = "STATUS.RD" := by decide

/-! ### Cases that meet the hypotheses of the statements

`witness_<Statement>` shows every hypothesis of the statement of that name met together, clause by clause. -/

/-- A row of each kind: a command, a frame of a type without a row of its own, the two types with one. -/
theorem test_witness_DecodeOfEncodeGivesInstruction :
    (Instr.fbWr 131071 0xFF).WellFormed ∧ (Instr.frame 0x05 0x70 [0x03] [] 0x09).WellFormed ∧
    (Instr.frameRadioErp1 0x12 [] [0x11] 0x77).WellFormed ∧ (Instr.frameResponse 0xD8 [0x55, 0x55] [] 0xE1).WellFormed := by
  decide

theorem test_witness_EncodeOfDecodeGivesEvent :
    decode (.command 0xA1010500) = .ok (.fbWr 65797 0x00) ∧
    decode (.chunk [0x55, 0x00, 0x01, 0x00, 0x05, 0x70, 0x03, 0x09]) = .ok (.frame 0x05 0x70 [0x03] [] 0x09) := ⟨rfl, rfl⟩

theorem test_witness_SpecWordsDecode :
    ([0xF6, 0x50, 0x01, 0x02, 0x03, 0x04, 0x30, 0x01, 0xFF, 0xFF, 0xFF, 0xFF, 0x2D, 0x00, 0xF9] : List Byte).length = 15 := rfl

theorem test_witness_StepRunsDecodedInstruction :
    (given (.command 0xC8000000) loaded).nextEvent? = some (.command 0xC8000000) ∧
    decode (.command 0xC8000000) = .ok .decode := ⟨rfl, rfl⟩

/-- Both kinds of illegal word, and a step on each. -/
theorem test_witness_IllegalWordRaisesIllegalCommand :
    (given (.command 0xF8000000) loaded).nextEvent? = some (.command 0xF8000000) ∧
    IllegalWord 0xF8000000 ∧
    (given (.command 0x02000000) loaded).nextEvent? = some (.command 0x02000000) ∧ IllegalWord 0x02000000 :=
  ⟨rfl, by decide, rfl, by decide⟩

theorem test_witness_ResetEventResetsTheBlock : (given .reset loaded).nextEvent? = some .reset := rfl

theorem test_witness_EveryEventAdvancesThePositionByOne :
    (given (.command 0xF8000000) loaded).ip < (given (.command 0xF8000000) loaded).script.length := by decide

/-- At the end of the list and before it. -/
theorem test_witness_FiniteProgramRunsToItsEnd :
    State.reset.ip ≤ State.reset.script.length ∧ (given .reset loaded).ip ≤ (given .reset loaded).script.length := by decide

theorem test_witness_StepKeepsTheInvariant :
    (given .reset loaded).Inv ∧ step (given .reset loaded) = .next { State.reset with script := [.reset], ip := 1 } :=
  ⟨by decide, rfl⟩

/-- The hypotheses under the three laws: equal table entries, two bytes that differ, equal lengths, the last bit. -/
theorem test_witness_Crc8DefaultLaws :
    config.crcTable 0x80 = config.crcTable 0x80 ∧ (0x00 : Byte) ≠ 0x80 ∧
    ([0x03, 0x09] : List Byte).length = ([0x80, 0x00] : List Byte).length ∧ 7 < 8 := by decide

/-- The last address of the frame buffer, at and beyond `FLEN`. -/
theorem test_witness_CrcUpdfbFoldsTheBufferByte :
    (65796 : Word17).toNat < 65797 ∧
    Memory.read? { State.reset with fb := [(65796, 0x50)] }.fb (65796 : Word17).toNat = some 0x50 := by decide

/-- A command whose byte is its own and one whose byte is in the frame buffer. -/
theorem test_witness_CommandSequenceComputesCrc8 :
    List.Forall₂ (fun i b => i = Instr.crcUpd b ∨
      ∃ a : Word17, a.toNat < 65797 ∧ i = .crcUpdfb a ∧ loaded.fb.read? a.toNat = some b)
      [.crcUpd 0x31, .crcUpdfb 5] [0x31, 0x70] :=
  .cons (.inl rfl) (.cons (.inr ⟨5, by decide, rfl, rfl⟩) .nil)

/-- The checksummed bytes are written, up to the last address of the frame buffer. -/
theorem test_witness_Crc8PseudoCommandComputesCrc8 :
    65796 + ([0x50] : List Byte).length ≤ 65797 ∧ ∀ i < ([0x50] : List Byte).length,
      Memory.read? { State.reset with fb := [(65796, 0x50)] }.fb (65796 + i) = ([0x50] : List Byte)[i]? := by decide

theorem test_witness_OnlyTheCrcCommandsTouchCrc :
    usesCrc .statusRd = false ∧ exec .statusRd loaded = .next { loaded with dout := 5 } := ⟨rfl, rfl⟩

/-- For the statements about Packets: a Packet with data, one with optional data only, the empty one, and one with a first and a last byte of each part. -/
theorem test_witness_packets :
    Packet.Bounded ⟨0x05, [0x03], []⟩ ∧ 1 ≤ ([0x03] : List Byte).length + ([] : List Byte).length ∧
    Packet.Bounded ⟨0x01, [], [0x11]⟩ ∧ Packet.Bounded ⟨0x05, [], []⟩ ∧
    ([] : List Byte).length + ([] : List Byte).length = 0 ∧ ([0xFF] : List Byte) ≠ [] ∧
    (0 < ([0x03] : List Byte).length ∧ 0 < ([0x11] : List Byte).length) := by decide

/-- The longest Packet of R11 is within the bounds. -/
theorem test_witness_longest_packet :
    Packet.Bounded ⟨0xFF, List.replicate 65535 0xFF, List.replicate 255 0xFF⟩ := by
  constructor <;> simp only [List.length_replicate] <;> decide

/-- Two Packets with one frame are one Packet: the hypothesis of the injectivity clause of EncodeLengthAndInjectivity. -/
theorem test_witness_EncodeLengthAndInjectivity :
    Packet.Bounded ⟨0x05, [0x03], []⟩ ∧
    encodePacket config ⟨0x05, [0x03], []⟩ = encodePacket config ⟨0x05, [0x03], []⟩ := ⟨by decide, rfl⟩

/-- A chunk for each outcome of `decode`: V1, V5, V7, V10, V12 and V6. -/
theorem test_witness_decode_outcomes :
    decodeChunk config [] = .err .framingError ∧
    decodeChunk config [0xAA, 0x00, 0x01, 0x00, 0x05, 0x00, 0x03, 0x09] = .err .syncError ∧
    decodeChunk config [0x55, 0x00, 0x01, 0x00, 0x05, 0x71, 0x03, 0x09] = .err .headerChecksumError ∧
    decodeChunk config [0x55, 0x00, 0x02, 0x00, 0x05, 0xCD, 0x03, 0x09] = .err .lengthError ∧
    decodeChunk config [0x55, 0x00, 0x01, 0x00, 0x05, 0x70, 0x03, 0xFF] = .err .bodyChecksumError ∧
    decodeChunk config [0x55, 0x00, 0x01, 0x00, 0x05, 0x70, 0x03, 0x09] = .ok ⟨0x05, [0x03], []⟩ := by decide

/-- The last clause of DecodeFailuresExactlyWhen: a chunk that announces no byte. -/
theorem test_witness_DecodeFailuresExactlyWhen :
    chunkDlen [0x55, 0x00, 0x00, 0x00, 0x05, 0x1B, 0x01, 0xFF] + chunkOlen [0x55, 0x00, 0x00, 0x00, 0x05, 0x1B, 0x01, 0xFF] = 0 := by
  decide

theorem test_witness_SurplusBytesAreIgnored :
    decodeChunk config [0x55, 0x00, 0x01, 0x00, 0x05, 0x70, 0x02, 0x09] ≠ .err .framingError ∧
    decodeChunk config [0x55, 0x00, 0x01, 0x00, 0x05, 0x70, 0x02, 0x09] ≠ .err .lengthError := by decide

/-- V12 with another byte beyond what `decode` reads, and V7 with another body. -/
theorem test_witness_DecodeReadsOnlyTheStatedBytes :
    decodeReach config [0x55, 0x00, 0x01, 0x00, 0x05, 0x70, 0x03, 0x09, 0xDE] = 8 ∧
    ([0x55, 0x00, 0x01, 0x00, 0x05, 0x70, 0x03, 0x09, 0xAD] : List Byte).take 8 =
      ([0x55, 0x00, 0x01, 0x00, 0x05, 0x70, 0x03, 0x09, 0xDE] : List Byte).take 8 ∧
    decodeReach config [0x55, 0x00, 0x01, 0x00, 0x05, 0x71, 0x03, 0x09] = 6 := by decide

theorem test_witness_OverlongChunkDecodesAsItsPrefix : 65797 < (List.replicate 65798 (0x55 : Byte)).length := by
  simp only [List.length_replicate]
  decide

/-- Every region of the shortest decodable frame, its last bit among them. -/
theorem test_witness_SingleBitCorruptionIsDetected :
    Packet.Bounded ⟨0x05, [0x03], []⟩ ∧ 8 ≤ (encodePacket config ⟨0x05, [0x03], []⟩).length ∧
    0 < (encodePacket config ⟨0x05, [0x03], []⟩).length ∧ 5 < (encodePacket config ⟨0x05, [0x03], []⟩).length ∧
    7 < (encodePacket config ⟨0x05, [0x03], []⟩).length ∧ 7 < 8 := by decide

theorem test_witness_EncodeBuildsTheFrame : packed.PacketWritten := by decide

theorem test_witness_EncodeTwiceIsEncodeOnce :
    packed.PacketWritten ∧ exec .encode packed = .next (encodeOp config packed) := ⟨by decide, rfl⟩

theorem test_witness_DecodeLoadsThePacket :
    decodeChunk config loaded.chunk = .ok ⟨0x05, [0x03], []⟩ ∧ loaded.ChunkWritten := by decide

/-- The five failures in the block: no chunk, and V6 with its sync byte, header checksum, length and body spoilt. -/
theorem test_witness_FailedDecodeChangesOnlyStatus :
    decodeChunk config State.reset.chunk = .err .framingError ∧ State.reset.ChunkWritten ∧
    decodeChunk config { loaded with fb := Memory.write v6Cells 0 0xAA }.chunk = .err .syncError ∧
    decodeChunk config { loaded with fb := Memory.write v6Cells 5 0x71 }.chunk = .err .headerChecksumError ∧
    decodeChunk config { loaded with fb := Memory.write (Memory.write v6Cells 2 0x02) 5 0xCD }.chunk = .err .lengthError ∧
    decodeChunk config { loaded with fb := Memory.write v6Cells 7 0xFF }.chunk = .err .bodyChecksumError := by decide

theorem test_witness_DecodeRaisesExactlyTheFiveErrors : exec .decode loaded = .next (decodeOp config loaded) := rfl

theorem test_witness_EncodeThenDecodeRestoresThePacket :
    1 ≤ packed.dlen.toNat + packed.olen.toNat ∧ packed.PacketWritten := by decide

theorem test_witness_EmptyPacketDoesNotSurviveTheRoundTrip : loaded.dlen = 0 ∧ loaded.olen = 0 := by decide

theorem test_witness_ByteStoresWriteOneByte : (65796 : Word17).toNat < 65797 ∧ (65535 : Word16).toNat = 65535 := by decide

/-- A written byte at the last address of each buffer. -/
theorem test_witness_ByteLoadsReadWrittenBytes :
    Memory.read? { State.reset with data := [(65535, 0xAB)] }.data (65535 : Word16).toNat = some 0xAB ∧
    Memory.read? { State.reset with opt := [(255, 0xCD)] }.opt (255 : Byte).toNat = some 0xCD ∧
    (65796 : Word17).toNat < 65797 ∧
    Memory.read? { State.reset with fb := [(65796, 0x00)] }.fb (65796 : Word17).toNat = some 0x00 := by decide

/-- A store to each buffer, and a store beside the byte that is looked at. -/
theorem test_witness_LoadReturnsTheLatestStore :
    exec (.dataWr 65535 0xAB) State.reset = .next { State.reset with data := [(65535, 0xAB)] } ∧
    exec (.optWr 255 0xCD) State.reset = .next { State.reset with opt := [(255, 0xCD)] } ∧
    exec (.fbWr 65796 0x00) State.reset = .next { State.reset with fb := [(65796, 0x00)] } ∧
    Instr.dataWr 65535 0xAB ≠ .encode ∧ Instr.dataWr 65535 0xAB ≠ .decode ∧ isFrame (.dataWr 65535 0xAB) = false ∧
    0 ≠ (65535 : Word16).toNat := ⟨rfl, rfl, rfl, by decide, by decide, rfl, by decide⟩

theorem test_witness_ReadsOfUnwrittenBytesComplete :
    State.reset.data.read? (65535 : Word16).toNat = none ∧ State.reset.opt.read? (255 : Byte).toNat = none ∧
    (65796 : Word17).toNat < 65797 ∧ State.reset.fb.read? (65796 : Word17).toNat = none := by decide

theorem test_witness_ChunkLengthCommandsComplete : (65797 : Word17).toNat ≤ 65797 ∧ (0 : Word17).toNat ≤ 65797 := by decide

theorem test_witness_StatusReadCompletes : loaded.Inv := by decide

/-- The smallest and the largest operand out of range, and a raised `AddressError`. -/
theorem test_witness_AddressErrorExactlyWhen :
    65797 ≤ (65797 : Word17).toNat ∧ 65797 ≤ (131071 : Word17).toNat ∧ 65797 < (65798 : Word17).toNat ∧
    ¬ 65797 < (65797 : Word17).toNat ∧
    exec (.fbRd 65797) loaded = .next { loaded with status := 6 } ∧ loaded.status ≠ 6 :=
  ⟨by decide, by decide, by decide, by decide, rfl, by decide⟩

theorem test_witness_ExceptionsArePrecise :
    isFrame (.fbSetlen 65798) = false ∧ exec (.fbSetlen 65798) loaded = .next { loaded with status := 6 } ∧
    (6 : Byte) ≠ loaded.status ∧ (6 : Byte) ≠ 0 := ⟨rfl, rfl, by decide, by decide⟩

theorem test_witness_StatusIsWrittenOnlyByItsWriters :
    Instr.fbRd 65797 ≠ .encode ∧ Instr.fbRd 65797 ≠ .decode ∧ isFrame (.fbRd 65797) = false ∧
    exec (.fbRd 65797) loaded = .next { loaded with status := 6 } ∧
    exec .encode packed = .next (encodeOp config packed) ∧ exec .decode loaded = .next (decodeOp config loaded) :=
  ⟨by decide, by decide, rfl, rfl, rfl, rfl⟩

theorem test_witness_NothingButStatusReadDependsOnStatus : Instr.decode ≠ .statusRd := by decide

theorem test_witness_DoutIsWrittenByReadsAndNeverRead : writesDout .decode = false := rfl

/-- An instruction that changes each component: the type, the lengths, the chunk length, the three buffers. -/
theorem test_witness_RegistersAndBuffersChangeOnlyByTheirWriters :
    exec (.pktSettype 1) State.reset = .next { State.reset with ptype := 1 } ∧ State.reset.ptype ≠ 1 ∧
    exec (.pktSetdlen 1) State.reset = .next { State.reset with dlen := 1 } ∧ State.reset.dlen ≠ 1 ∧
    exec (.pktSetolen 1) State.reset = .next { State.reset with olen := 1 } ∧ State.reset.olen ≠ 1 ∧
    exec (.fbSetlen 1) State.reset = .next { State.reset with flen := 1 } ∧ State.reset.flen ≠ 1 ∧
    exec (.dataWr 0 1) State.reset = .next { State.reset with data := [(0, 1)] } ∧ State.reset.data ≠ [(0, 1)] ∧
    exec (.optWr 0 1) State.reset = .next { State.reset with opt := [(0, 1)] } ∧ State.reset.opt ≠ [(0, 1)] ∧
    exec (.fbWr 0 1) State.reset = .next { State.reset with fb := [(0, 1)] } ∧ State.reset.fb ≠ [(0, 1)] := by
  refine ⟨rfl, ?_, rfl, ?_, rfl, ?_, rfl, ?_, rfl, ?_, rfl, ?_, rfl, ?_⟩ <;> decide

/-- A buffer of `n` bytes, all written. -/
def filled (n : Nat) : Memory := Memory.writes [] 0 (List.replicate n 0x00)

/-- The reset state with other buffers. -/
def withBuffers (d o f : Memory) : State := { State.reset with data := d, opt := o, fb := f }

theorem filled_written {n i : Nat} (h : i < n) : ((filled n).read? i).isSome = true := by
  simp [filled, Memory.read?_writes_zero, h]

theorem filled_wf (n : Nat) : (filled n).wf = true := by
  rw [filled]
  exact Memory.wf_writes _ _ _ rfl

theorem filled_within (n : Nat) : (filled n).within n = true := by
  rw [filled]
  exact Memory.within_writes _ _ (by rw [List.length_replicate]; omega) rfl

/-- Buffers in form, inside their sizes and written throughout make a state the statement is about. -/
theorem full_state {d o f : Memory} (hd : d.wf = true ∧ d.within 65536 = true ∧ ∀ i < 65536, (d.read? i).isSome = true)
    (ho : o.wf = true ∧ o.within 256 = true ∧ ∀ i < 256, (o.read? i).isSome = true)
    (hf : f.wf = true ∧ f.within 65797 = true ∧ ∀ i < 65797, (f.read? i).isSome = true) :
    (withBuffers d o f).Inv ∧ ∀ S : Space, (withBuffers d o f).written S 0 (bufSize S) = true := by
  refine ⟨(State.inv_iff _).2 ⟨hd.1, ho.1, hf.1, hd.2.1, ho.2.1, hf.2.1, by simp [withBuffers, State.reset],
    by simp [withBuffers, State.reset]⟩, fun S => ?_⟩
  rw [State.written_iff]
  intro i hi
  rw [Nat.zero_add]
  cases S
  · exact hd.2.2 i hi
  · exact ho.2.2 i hi
  · exact hf.2.2 i hi

/-- Every byte of the three buffers written. -/
theorem test_witness_RunsOverWrittenBytesAreValid :
    (∃ t, exec (.pktSettype 1) (withBuffers (filled 65536) (filled 256) (filled 65797)) = .next t) ∧
    (withBuffers (filled 65536) (filled 256) (filled 65797)).Inv ∧
    ∀ S : Space, (withBuffers (filled 65536) (filled 256) (filled 65797)).written S 0 (bufSize S) = true :=
  ⟨⟨_, rfl⟩, full_state ⟨filled_wf _, filled_within _, fun _ => filled_written⟩
    ⟨filled_wf _, filled_within _, fun _ => filled_written⟩ ⟨filled_wf _, filled_within _, fun _ => filled_written⟩⟩

/-- A chunk that is a frame and one that is not. -/
theorem test_witness_HandedOverChunkIsTheCommandSequence :
    (given (.chunk [0x55, 0x00, 0x02, 0x00, 0x02, 0xD8, 0x55, 0x55, 0xE1]) loaded).nextEvent? =
      some (.chunk [0x55, 0x00, 0x02, 0x00, 0x02, 0xD8, 0x55, 0x55, 0xE1]) ∧
    (given (.chunk [0xAA]) loaded).nextEvent? = some (.chunk [0xAA]) := ⟨rfl, rfl⟩

/-- Each of the three rows on its Packet: V6, E5, V23. -/
theorem test_witness_FrameRowsLoadThePacket :
    (Packet.Bounded ⟨0x05, [0x03], []⟩ ∧ 1 ≤ ([0x03] : List Byte).length) ∧
    (Packet.Bounded ⟨0x01, [], [0x11]⟩ ∧ 1 ≤ ([0x11] : List Byte).length) ∧
    (Packet.Bounded ⟨0x02, [0x55, 0x55], []⟩ ∧ 1 ≤ ([0x55, 0x55] : List Byte).length) ∧
    crc8 config (packetHeader ⟨0x02, [0x55, 0x55], []⟩) = 0xD8 ∧ crc8 config [0x55, 0x55] = 0xE1 := by decide

/-- The empty frame E3, a spoilt radio telegram and a spoilt response. -/
theorem test_witness_RejectedFrameRowsKeepThePacket :
    (lengthsFit [] [] = true ∧ decodeChunk config (frameBytes 0x05 0x1B [] [] 0x00) = .err .framingError) ∧
    (lengthsFit [] [0x11] = true ∧ decodeChunk config (frameBytes 0x01 0x12 [] [0x11] 0x76) = .err .bodyChecksumError) ∧
    (lengthsFit [0x55] [] = true ∧
      decodeChunk config (frameBytes 0x02 0xD8 [0x55] [] 0xE1) = .err .headerChecksumError) := by decide

/-- A table and a start value that are not the defaults: the identity and 0xFF. -/
def otherConfig : Config where
  crcTable := fun x => x
  crcInit := 0xFF

/-- The frame of the Packet of V6 under the other configuration: each checksum is 0xFF folded with the bytes by
exclusive or, as R90 says for this table. -/
def otherCells : Memory := [(0, 0x55), (1, 0x00), (2, 0x01), (3, 0x00), (4, 0x05), (5, 0xFB), (6, 0x03), (7, 0xFC)]

/-- `ENCODE` under another table and start value. -/
theorem test_other_table_encode :
    (match execFor otherConfig .encode packed with | .next t => some t.fb | .fault _ => none | .refused _ => none) =
    some otherCells := by decide

/-- The written byte, the first address out of range, a chunk that decodes, one that does not, a frame row whose lengths
fit, and an instruction that uses no table, all at a table and start value that are not the defaults. -/
theorem test_witness_InstructionsForEveryTable :
    (65796 : Word17).toNat < 65797 ∧
    Memory.read? { State.reset with fb := [(65796, 0x50)] }.fb (65796 : Word17).toNat = some 0x50 ∧
    65797 ≤ (65797 : Word17).toNat ∧
    decodeChunk otherConfig { loaded with fb := otherCells }.chunk = .ok ⟨0x05, [0x03], []⟩ ∧
    decodeChunk otherConfig loaded.chunk = .err .headerChecksumError ∧
    lengthsFit [0x03] [] = true ∧ usesConfig .nop = false := by decide

theorem test_witness_StepForEveryTableKeepsTheInvariant : (given .reset loaded).Inv := by decide

end Sys2Proof.Tests
end

section
/-!
PROOFS. The scope statements: the machine for every table and start value (spec/00_scope.md R8). Rules for the shared
operations first (the default machine, the invariant, command lists), then the four statements.
-/

namespace Sys2Proof.Machine

/-! ### The default machine -/

theorem exec_eq_execFor : exec = execFor config := by
  funext i s
  cases i <;> rfl

theorem step_eq_stepFor (s : State) : step s = stepFor config s := by
  rw [step, stepFor, exec_eq_execFor]

theorem execAll_eq_execAllFor (is : List Instr) (s : State) : execAll is s = execAllFor config is s := by
  rw [execAll, execAllFor, exec_eq_execFor]

/-! ### What keeps the invariant

An update of a component the invariant does not speak of keeps it by unfolding, so only the buffers, `FLEN` and `STATUS`
have a rule. -/

theorem State.Inv.buf {s : State} (h : s.Inv) (S : Space) :
    (s.buf S).wf = true ∧ (s.buf S).within (bufSize S) = true := by
  obtain ⟨hd, ho, hf, hdi, hoi, hfi, -, -⟩ := (State.inv_iff s).1 h
  cases S with
  | data => exact ⟨hd, hdi⟩
  | opt => exact ⟨ho, hoi⟩
  | fb => exact ⟨hf, hfi⟩

theorem State.Inv.setBuf {s : State} (h : s.Inv) (S : Space) {m : Memory} (hw : m.wf = true)
    (hi : m.within (bufSize S) = true) : (s.setBuf S m).Inv := by
  rw [State.inv_iff] at h ⊢
  obtain ⟨hd, ho, hf, hdi, hoi, hfi, hl, hs⟩ := h
  cases S with
  | data => exact ⟨hw, ho, hf, hi, hoi, hfi, hl, hs⟩
  | opt => exact ⟨hd, hw, hf, hdi, hi, hfi, hl, hs⟩
  | fb => exact ⟨hd, ho, hw, hdi, hoi, hi, hl, hs⟩

theorem State.Inv.writeByte {s : State} (h : s.Inv) (S : Space) {a : Nat} (v : Byte) (ha : a < bufSize S) :
    (writeByte S a v s).Inv :=
  h.setBuf S (Memory.wf_write _ _ _ (h.buf S).1) (Memory.within_write _ _ ha (h.buf S).2)

theorem State.Inv.memWrites {s : State} (h : s.Inv) (S : Space) {bs : List Byte} (hb : bs.length ≤ bufSize S) :
    (s.memWrites S 0 bs).Inv :=
  h.setBuf S (Memory.wf_writes _ _ _ (h.buf S).1) (Memory.within_writes _ _ (by omega) (h.buf S).2)

theorem State.Inv.setFlen {s : State} (h : s.Inv) {n : Word17} (hn : n.toNat ≤ 65797) : (s.setFlen n).Inv := by
  rw [State.inv_iff] at h ⊢
  obtain ⟨hd, ho, hf, hdi, hoi, hfi, -, hs⟩ := h
  exact ⟨hd, ho, hf, hdi, hoi, hfi, hn, hs⟩

theorem State.Inv.setStatus {s : State} (h : s.Inv) (e : ResultCode) : (s.setStatus e).Inv := by
  have hc : (e.code.setWidth 8).toNat < 8 := by cases e <;> decide
  rw [State.inv_iff] at h ⊢
  obtain ⟨hd, ho, hf, hdi, hoi, hfi, hl, -⟩ := h
  exact ⟨hd, ho, hf, hdi, hoi, hfi, hl, hc⟩

/-- A frame-buffer address operand keeps the invariant when its effect on an address inside the buffer does. -/
theorem State.Inv.withFbAddress {s : State} (h : s.Inv) (a : Word17) {f : Nat → State → State}
    (hf : a.toNat < bufSize .fb → (f a.toNat s).Inv) : (withFbAddress a f s).Inv := by
  rcases withFbAddress_cases a f s with ⟨-, e⟩ | ⟨ha, e⟩
  · rw [e]; exact h.setStatus .addressError
  · rw [e]; exact hf ha

/-- `FB.SETLEN` keeps the invariant whatever its operand (R163, R188). -/
theorem State.Inv.withFbLength_setFlen {s : State} (h : s.Inv) (n : Word17) :
    (withFbLength n State.setFlen s).Inv := by
  rcases withFbLength_cases n State.setFlen s with ⟨-, e⟩ | ⟨hn, e⟩
  · rw [e]; exact h.setStatus .addressError
  · rw [e]; exact h.setFlen hn

theorem State.Inv.encodeOp {s : State} (h : s.Inv) (c : Config) : (encodeOp c s).Inv := by
  obtain ⟨-, hl⟩ := frameLen_le s
  have hf : (s.memWrites .fb 0 (encodePacket c s.packet)).Inv :=
    h.memWrites .fb (by rw [length_encodePacket_packet]; exact hl)
  have hn : (BitVec.ofNat 17 s.frameLen).toNat ≤ 65797 := (Nat.mod_le _ _).trans hl
  exact (hf.setFlen hn).setStatus .ok

theorem length_slice_le (b : List Byte) (i j : Nat) : (slice b i j).length ≤ j - i :=
  List.length_take_le _ _

/-- What decodes is a Packet within the bounds of R11, since a chunk's length fields can announce no more (R131). -/
theorem bounded_of_decodeChunk_ok {c : Config} {b : List Byte} {p : Packet} (h : decodeChunk c b = .ok p) :
    p.Bounded := by
  have hd : chunkDlen b ≤ dlenMax := unbe16_lt _ _
  have ho : chunkOlen b ≤ olenMax := Nat.le_of_lt_succ (byteAt b 3).isLt
  rcases decodeChunk_cases c b with ⟨_, e⟩ | ⟨_, _, e⟩ | ⟨_, _, _, e⟩ | ⟨_, _, _, _, e⟩ | ⟨_, _, _, _, _, e⟩ |
    ⟨_, _, _, _, _, e⟩ <;> rw [h] at e <;> cases e
  have h₁ := length_slice_le b 6 (6 + chunkDlen b)
  have h₂ := length_slice_le b (6 + chunkDlen b) (bodyEnd b)
  exact ⟨h₁.trans (by omega), h₂.trans (by rw [bodyEnd]; omega)⟩

theorem State.Inv.loadPacket {s : State} (h : s.Inv) {p : Packet} (hp : p.Bounded) : (s.loadPacket p).Inv := by
  obtain ⟨hd, ho⟩ := hp
  have hregs : (((s.setPtype p.ptype).setDlen (BitVec.ofNat 16 p.data.length)).setOlen
    (BitVec.ofNat 8 p.opt.length)).Inv := h
  have hdata := hregs.memWrites .data (hd.trans (by decide))
  exact (hdata.memWrites .opt (ho.trans (by decide))).setStatus .ok

theorem State.Inv.decodeOp {s : State} (h : s.Inv) (c : Config) : (decodeOp c s).Inv := by
  suffices ht : (s.takeResult (decodeChunk c s.chunk)).Inv from ht
  cases hr : decodeChunk c s.chunk with
  | err e => exact h.setStatus e.toCode
  | ok p => exact h.loadPacket (bounded_of_decodeChunk_ok hr)

theorem State.Inv.loadChunk {s : State} (h : s.Inv) (bs : List Byte) : (loadChunk bs s).Inv :=
  have hl := length_take_fbSize bs
  (h.memWrites .fb hl).setFlen ((Nat.mod_le _ _).trans hl)

theorem State.Inv.handOverChunk {s : State} (h : s.Inv) (c : Config) (bs : List Byte) :
    (handOverChunk c bs s).Inv :=
  (h.loadChunk bs).decodeOp c

theorem inv_resetBlock (c : Config) (s : State) : (s.resetBlock c).Inv := rfl

theorem inv_resetFor (c : Config) : (resetFor c).Inv := rfl

/-! ### Every instruction and every step complete and keep the invariant -/

/-- An outcome is a next state, and that state meets the invariant if `s` does. -/
def CompletesFrom (s : State) (o : Host.Outcome State Fault Refusal) : Prop :=
  ∃ t, o = .next t ∧ (s.Inv → t.Inv)

theorem CompletesFrom.next {s t : State} (h : s.Inv → t.Inv) : CompletesFrom s (.next t) :=
  ⟨t, rfl, h⟩

/-- R226, and R29, R30, R33 for one instruction. -/
theorem execFor_completes (c : Config) (i : Instr) (s : State) : CompletesFrom s (execFor c i s) := by
  cases i with
  | nop | crcClr | crcUpd | crcRd | pktSettype | pktSetdlen | pktSetolen | pktGettype | pktGetdlen | pktGetolen
  | dataRd | optRd | fbGetlen | statusRd => exact .next id
  | crcUpdfb a => exact .next fun h => h.withFbAddress a fun _ => h
  | dataWr a v => exact .next fun h => h.writeByte .data v a.isLt
  | optWr a v => exact .next fun h => h.writeByte .opt v a.isLt
  | fbWr a v => exact .next fun h => h.withFbAddress a fun ha => h.writeByte .fb v ha
  | fbRd a => exact .next fun h => h.withFbAddress a fun _ => h
  | fbSetlen n => exact .next fun h => h.withFbLength_setFlen n
  | encode => exact .next fun h => h.encodeOp c
  | decode => exact .next fun h => h.decodeOp c
  | frame | frameRadioErp1 | frameResponse => exact .next fun h => h.handOverChunk c _

/-- A step completes and keeps the invariant when every instruction's meaning does. -/
theorem stepBy_completes {run : Instr → State → Host.Outcome State Fault Refusal}
    (hrun : ∀ i s, CompletesFrom s (run i s)) (c : Config) (s : State) : CompletesFrom s (stepBy run c s) := by
  rcases stepBy_cases run c s with ⟨-, e⟩ | ⟨_, i, -, -, e⟩ | ⟨_, _, -, -, e⟩ | ⟨bs, _, -, -, e⟩ | ⟨-, e⟩ <;> rw [e]
  · exact .next id
  · exact hrun i s.advance
  · exact .next fun h => State.Inv.setStatus (s := s.advance) h .illegalCommand
  · exact .next fun h => State.Inv.handOverChunk (s := s.advance) h c bs
  · exact .next fun _ => inv_resetBlock c s.advance

/-! ### The checksum commands -/

theorem execFor_crcUpdfb_of_written (c : Config) {s : State} {a : Word17} {b : Byte} (ha : a.toNat < 65797)
    (hb : s.fb.read? a.toNat = some b) :
    execFor c (.crcUpdfb a) s = .next { s with crc := c.crcTable (s.crc ^^^ b) } := by
  have hw : s.written .fb a.toNat 1 = true := by
    rw [State.written_iff]
    intro i hi
    obtain rfl : i = 0 := by omega
    simp [hb]
  have hr : s.memRead .fb a.toNat = b := State.memRead_of_written hb
  simp only [execFor, execCrcUpdfbFor, withFbAddress_inside ha, foldFb, hw, hr, State.noteRead_true]
  rfl

/-- A command that folds byte `b` into `CRC`: from its operand, or from the contents `m` of the frame buffer (R99). -/
def FoldsByte (m : Memory) (i : Instr) (b : Byte) : Prop :=
  i = .crcUpd b ∨ ∃ a : Word17, a.toNat < 65797 ∧ i = .crcUpdfb a ∧ m.read? a.toNat = some b

theorem execFor_of_foldsByte (c : Config) {s : State} {i : Instr} {b : Byte} (h : FoldsByte s.fb i b) :
    execFor c i s = .next { s with crc := c.crcTable (s.crc ^^^ b) } := by
  rcases h with rfl | ⟨a, ha, rfl, hb⟩
  · rfl
  · exact execFor_crcUpdfb_of_written c ha hb

/-- R99: commands that fold the bytes `bs` leave the fold of `bs` in `CRC`. -/
theorem execAllFor_of_foldsBytes (c : Config) {m : Memory} {is : List Instr} {bs : List Byte}
    (h : List.Forall₂ (FoldsByte m) is bs) {s : State} (hm : s.fb = m) :
    execAllFor c is s = .next { s with crc := crcFold c s.crc bs } := by
  induction h generalizing s with
  | nil => rfl
  | cons hi _ ih => exact (execAllBy_cons (execFor_of_foldsByte c (hm ▸ hi))).trans (ih hm)

theorem execAllFor_crcClr_of_foldsBytes (c : Config) {s : State} {is : List Instr} {bs : List Byte}
    (h : List.Forall₂ (FoldsByte s.fb) is bs) :
    execAllFor c (.crcClr :: is) s = .next { s with crc := crc8 c bs } :=
  execAllFor_of_foldsBytes c h (s := { s with crc := c.crcInit }) rfl

theorem execAllFor_crcClr_crcRd_of_foldsBytes (c : Config) {s : State} {is : List Instr} {bs : List Byte}
    (h : List.Forall₂ (FoldsByte s.fb) is bs) :
    execAllFor c (.crcClr :: (is ++ [.crcRd])) s =
      .next { s with crc := crc8 c bs, dout := BitVec.ofNat 32 (crc8 c bs).toNat } := by
  rw [← zext32_eq_ofNat]
  exact execAllBy_append (.crcClr :: is) [.crcRd] (execAllFor_crcClr_of_foldsBytes c h)

/-! ### `ENCODE` and `DECODE` -/

/-- `FLEN` is wide enough for the longest frame, so its length does not wrap (R113, R94). -/
theorem encodeOp_flen_toNat (c : Config) (s : State) :
    (encodeOp c s).flen.toNat = 7 + s.dlen.toNat + s.olen.toNat :=
  Nat.mod_eq_of_lt (Nat.lt_of_le_of_lt (frameLen_le s).2 (by decide))

theorem Memory.holdsOver_writes (m : Memory) (bs : List Byte) : (m.writes 0 bs).HoldsOver m bs :=
  fun a => Memory.read?_writes_zero m a bs

theorem decodeOp_of_err {c : Config} {s : State} {e : DecodeError} (h : decodeChunk c s.chunk = .err e) :
    decodeOp c s = { s with
      status := e.toCode.code.setWidth 8, unwrittenReads := (decodeOp c s).unwrittenReads } := by
  rw [decodeOp, h]
  rfl

theorem decodeOp_of_ok {c : Config} {s : State} {p : Packet} (h : decodeChunk c s.chunk = .ok p) :
    decodeOp c s = { s with
      ptype := p.ptype, dlen := BitVec.ofNat 16 p.data.length, olen := BitVec.ofNat 8 p.opt.length,
      data := s.data.writes 0 p.data, opt := s.opt.writes 0 p.opt, status := 0,
      unwrittenReads := (decodeOp c s).unwrittenReads } := by
  rw [decodeOp, h]
  rfl

/-- A `DECODE` whose chunk decodes leaves the Packet in its registers and buffers (R134). -/
theorem packetLoaded_decodeOp {c : Config} {s : State} {p : Packet} (h : decodeChunk c s.chunk = .ok p) :
    PacketLoaded p s (decodeOp c s) := by
  obtain ⟨hd, ho⟩ := toNat_ofNat_of_bounded (bounded_of_decodeChunk_ok h)
  rw [decodeOp_of_ok h]
  exact ⟨rfl, hd, ho, Memory.holdsOver_writes _ _, Memory.holdsOver_writes _ _⟩

/-! ### Handing over a chunk -/

/-- Stores of successive bytes of `bs`, one command each, write the first bytes of `bs` from address 0 on. -/
theorem execAllBy_repeatFor_writeByte {run : Instr → State → Host.Outcome State Fault Refusal} {S : Space}
    {bs : List Byte} {store : Nat → Instr}
    (hrun : ∀ i < bs.length, ∀ t, run (store i) t = .next (writeByte S i (byteAt bs i) t)) {n : Nat}
    (hn : n ≤ bs.length) (s : State) :
    execAllBy run (repeatFor n store) s = .next (s.memWrites S 0 (bs.take n)) := by
  induction n with
  | zero => cases S <;> rfl
  | succ n ih =>
    have hsplit : repeatFor (n + 1) store = repeatFor n store ++ [store n] := by
      simp [repeatFor, List.range_succ]
    have hlast : writeByte S n (byteAt bs n) (s.memWrites S 0 (bs.take n)) = s.memWrites S 0 (bs.take (n + 1)) := by
      have hlen : (bs.take n).length = n := List.length_take_of_le (by omega)
      rw [List.take_succ_eq_append_getElem (by omega), ← byteAt_eq_getElem]
      cases S <;> simp [State.memWrites, writeByte, Memory.writes_append, hlen, State.setBuf, Memory.writes]
    rw [hsplit, execAllBy_append _ _ (ih (by omega)), execAllBy_cons (hrun n (by omega) _), hlast, execAllBy_nil]

theorem toNat_ofNat_of_le_fbSize {n : Nat} (h : n ≤ 65797) : (BitVec.ofNat 17 n).toNat = n :=
  Nat.mod_eq_of_lt (by omega)

theorem execFor_fbWr_ofNat (c : Config) {i : Nat} (hi : i < 65797) (v : Byte) (s : State) :
    execFor c (.fbWr (BitVec.ofNat 17 i) v) s = .next (writeByte .fb i v s) := by
  have hn := toNat_ofNat_of_le_fbSize hi.le
  rw [execFor, execFbWr, withFbAddress_inside (by omega), hn]

theorem execFor_fbSetlen_ofNat (c : Config) {n : Nat} (hn : n ≤ 65797) (s : State) :
    execFor c (.fbSetlen (BitVec.ofNat 17 n)) s = .next (s.setFlen (BitVec.ofNat 17 n)) := by
  rw [execFor, execFbSetlen, withFbLength_inside ((toNat_ofNat_of_le_fbSize hn).trans_le hn)]

/-- R77: `FB.LOAD` of a chunk no longer than the frame buffer loads it. -/
theorem execAllFor_expandFbLoad (c : Config) {bs : List Byte} (h : bs.length ≤ 65797) (s : State) :
    execAllFor c (expandFbLoad bs) s = .next (loadChunk bs s) := by
  have htake : bs.take fbSize = bs := List.take_of_length_le h
  have hstores := execAllBy_repeatFor_writeByte (bs := bs)
    (fun i hi => execFor_fbWr_ofNat c (Nat.lt_of_lt_of_le hi h) (byteAt bs i)) le_rfl s
  rw [execAllFor, expandFbLoad, execAllBy_append _ _ hstores, execAllBy_cons (execFor_fbSetlen_ofNat c h _),
    execAllBy_nil, loadChunk, htake, List.take_length]

/-- R227: the commands of handing over a chunk no longer than the frame buffer do what `handOverChunk` does. -/
theorem execAllFor_handOverChunk (c : Config) {bs : List Byte} (h : bs.length ≤ 65797) (s : State) :
    execAllFor c (expandFbLoad bs ++ [.decode, .statusRd]) s = .next (handOverChunk c bs s) :=
  execAllBy_append _ _ (execAllFor_expandFbLoad c h s)

theorem length_frameBytes_le {t h : Byte} {d o : List Byte} {b : Byte} (hfit : lengthsFit d o = true) :
    (frameBytes t h d o b).length ≤ 65797 := by
  obtain ⟨hd, ho⟩ := (lengthsFit_iff d o).1 hfit
  rw [length_frameBytes]
  omega

theorem execFor_eq_of_usesConfig_false {i : Instr} (h : usesConfig i = false) (c c' : Config) (s : State) :
    execFor c' i s = execFor c i s := by
  cases i with
  | crcClr | crcUpd | crcUpdfb | encode | decode | frame | frameRadioErp1 | frameResponse => cases h
  | _ => rfl

end Sys2Proof.Machine

open Sys2Proof Sys2Proof.Machine

/-- Settles O60, from the completion of every instruction. -/
theorem stepForEveryTableKeepsTheInvariant : Obligations.StepForEveryTableKeepsTheInvariant :=
  fun c => ⟨inv_resetFor c, stepBy_completes (execFor_completes c) c⟩

/-- Settles O18, by induction on the commands and the bytes they fold. -/
theorem commandSequenceComputesCrc8 : Obligations.CommandSequenceComputesCrc8 := by
  intro s is bs h
  simp only [execAll_eq_execAllFor]
  exact ⟨execAllFor_of_foldsBytes config h rfl, execAllFor_crcClr_of_foldsBytes config h,
    execAllFor_crcClr_crcRd_of_foldsBytes config h,
    fun c => ⟨execAllFor_of_foldsBytes c h rfl, execAllFor_crcClr_crcRd_of_foldsBytes c h⟩⟩

/-- Settles O59, one clause per group of instructions. -/
theorem instructionsForEveryTable : Obligations.InstructionsForEveryTable := by
  intro c s
  refine ⟨rfl, fun _ => rfl, fun _ _ => execFor_crcUpdfb_of_written c, fun a ha => ?updfbOutside, ?encode,
    fun p hp => ?decodeOk, fun e he => ?decodeErr, fun y h d o b hfit => ?frames,
    fun c' _ hi => execFor_eq_of_usesConfig_false hi c c' s⟩
  case updfbOutside =>
    exact congrArg Host.Outcome.next (withFbAddress_outside ha (foldFb c) s)
  case encode =>
    exact ⟨encodeOp c s, rfl, encodeOp_flen_toNat c s, rfl, Memory.holdsOver_writes _ _, rfl⟩
  case decodeOk =>
    refine ⟨decodeOp c s, rfl, ?_, packetLoaded_decodeOp hp, ?_⟩ <;> rw [decodeOp_of_ok hp]
  case decodeErr =>
    refine ⟨decodeOp c s, rfl, ?_, ?_⟩ <;> rw [decodeOp_of_err he]
  case frames =>
    exact ⟨(execAllFor_handOverChunk c (length_frameBytes_le hfit) s).symm,
      (execAllFor_handOverChunk c (length_frameBytes_le hfit) s).symm,
      (execAllFor_handOverChunk c (length_frameBytes_le hfit) s).symm⟩

/-- Settles O58, arm by arm. -/
theorem defaultMachineIsTheParameterAtItsDefault : Obligations.DefaultMachineIsTheParameterAtItsDefault :=
  ⟨fun i s => congrFun₂ exec_eq_execFor i s, step_eq_stepFor, execAll_eq_execAllFor, rfl⟩
end

section
/-!
PROOFS. The state statements (spec/10_state.md). First an instruction as a function of the state; then, component by
component, what it leaves, what it reads and what it writes; then the eighteen statements.
-/

namespace Sys2Proof.Machine

/-! ### An instruction as a function of the state -/

/-- The next state of an instruction. Every instruction has one (`exec_eq_next`, R226). -/
def effect (i : Instr) (s : State) : State :=
  match exec i s with
  | .next t => t
  | .fault _ => s
  | .refused _ => s

theorem exec_eq_next (i : Instr) (s : State) : exec i s = .next (effect i s) := by
  cases i <;> rfl

theorem eq_effect_of_exec {i : Instr} {s t : State} (h : exec i s = .next t) : t = effect i s :=
  Host.Outcome.next.inj (h.symm.trans (exec_eq_next i s))

theorem withFbAddress_eq (a : Word17) (f : Nat → State → State) :
    withFbAddress a f = State.raise .addressError ∨ a.toNat < 65797 ∧ withFbAddress a f = f a.toNat := by
  by_cases h : a.toNat < 65797
  · exact .inr ⟨h, funext (withFbAddress_inside h f)⟩
  · exact .inl (funext (withFbAddress_outside (by omega) f))

theorem withFbLength_eq (n : Word17) (f : Word17 → State → State) :
    withFbLength n f = State.raise .addressError ∨ n.toNat ≤ 65797 ∧ withFbLength n f = f n := by
  by_cases h : n.toNat ≤ 65797
  · exact .inr ⟨h, funext (withFbLength_inside h f)⟩
  · exact .inl (funext (withFbLength_outside (by omega) f))

/-- The frame-buffer operand of an instruction, if it has one, is legal (R188). -/
def FbOperandInRange : Instr → Prop
  | .crcUpdfb a => a.toNat < 65797
  | .fbWr a _ => a.toNat < 65797
  | .fbRd a => a.toNat < 65797
  | .fbSetlen n => n.toNat ≤ 65797
  | _ => True

/-- The effect of an instruction without the check of its frame-buffer operand. -/
def inRangeEffect : Instr → State → State
  | .crcUpdfb a => foldFb config a.toNat
  | .fbWr a v => writeByte .fb a.toNat v
  | .fbRd a => readByte .fb a.toNat
  | .fbSetlen n => State.setFlen n
  | i => effect i

/-- An instruction raises `AddressError` or its operand is legal. -/
theorem effect_cases (i : Instr) :
    effect i = State.raise .addressError ∨ FbOperandInRange i ∧ effect i = inRangeEffect i := by
  cases i with
  | crcUpdfb a => exact withFbAddress_eq a (foldFb config)
  | fbWr a v => exact withFbAddress_eq a fun k => writeByte .fb k v
  | fbRd a => exact withFbAddress_eq a (readByte .fb)
  | fbSetlen n => exact withFbLength_eq n State.setFlen
  | _ => exact .inr ⟨trivial, rfl⟩

theorem exec_fbWr_inside {a : Word17} (ha : a.toNat < 65797) (v : Byte) (s : State) :
    exec (.fbWr a v) s = .next (writeByte .fb a.toNat v s) :=
  congrArg Host.Outcome.next (withFbAddress_inside ha (fun k => writeByte .fb k v) s)

theorem exec_fbRd_inside {a : Word17} (ha : a.toNat < 65797) (s : State) :
    exec (.fbRd a) s = .next (readByte .fb a.toNat s) :=
  congrArg Host.Outcome.next (withFbAddress_inside ha (readByte .fb) s)

theorem exec_crcUpdfb_inside {a : Word17} (ha : a.toNat < 65797) (s : State) :
    exec (.crcUpdfb a) s = .next (foldFb config a.toNat s) :=
  congrArg Host.Outcome.next (withFbAddress_inside ha (foldFb config) s)

/-! ### The host's list and position -/

/-- The host's list and position are as before. -/
abbrev HostKept (s t : State) : Prop := t.script = s.script ∧ t.ip = s.ip

/-- Taking the result of `decode` touches only the Packet registers and buffers and `STATUS` (R134, R135). -/
theorem State.takeResult_eq (s : State) (r : DecodeResult) :
    s.takeResult r = { s with
      ptype := (s.takeResult r).ptype, dlen := (s.takeResult r).dlen, olen := (s.takeResult r).olen,
      data := (s.takeResult r).data, opt := (s.takeResult r).opt, status := (s.takeResult r).status } := by
  cases r <;> rfl

theorem encodeOp_hostKept (c : Config) (s : State) : HostKept s (encodeOp c s) :=
  have h := encodeOp_eq c s
  ⟨(congrArg State.script h :), (congrArg State.ip h :)⟩

theorem decodeOp_hostKept (c : Config) (s : State) : HostKept s (decodeOp c s) :=
  have h := s.takeResult_eq (decodeChunk c s.chunk)
  ⟨(congrArg State.script h :), (congrArg State.ip h :)⟩

theorem handOverChunk_hostKept (c : Config) (bs : List Byte) (s : State) : HostKept s (handOverChunk c bs s) :=
  decodeOp_hostKept c (loadChunk bs s)

theorem effect_hostKept (i : Instr) (s : State) : HostKept s (effect i s) := by
  rcases effect_cases i with e | ⟨-, e⟩ <;> rw [e]
  · exact ⟨rfl, rfl⟩
  cases i with
  | encode => exact encodeOp_hostKept config s
  | decode => exact decodeOp_hostKept config s
  | frame | frameRadioErp1 | frameResponse => exact handOverChunk_hostKept config _ s
  | _ => exact ⟨rfl, rfl⟩

/-! ### A step -/

theorem step_completes (s : State) : CompletesFrom s (step s) := by
  rw [step_eq_stepFor]
  exact stepBy_completes (execFor_completes config) config s

theorem step_of_decode {s : State} {e : HostEvent} {i : Instr} (he : s.nextEvent? = some e) (hi : decode e = .ok i) :
    step s = exec i s.advance := by
  cases e with
  | command w =>
    have hw : decodeCommand w = .ok i := hi
    simp only [step, stepBy, he, runEventBy, hw]
  | chunk bs =>
    have hb : decodeFrame bs = .ok i := hi
    simp only [step, stepBy, he, runEventBy, hb]
  | reset => cases hi

theorem step_of_reset {s : State} (h : s.nextEvent? = some .reset) :
    step s = .next (s.advance.resetBlock config) := by
  simp only [step, stepBy, h, runEventBy, resetEvent]

/-- R24: whatever the event, the host's position moves on by one and its list stays. -/
theorem step_advances {s : State} (h : s.ip < s.script.length) :
    ∃ t, step s = .next t ∧ t.ip = s.ip + 1 ∧ t.script = s.script := by
  have hsome : s.nextEvent? = some s.script[s.ip] := List.getElem?_eq_getElem h
  rcases stepBy_cases exec config s with ⟨hnone, -⟩ | ⟨_, i, -, -, e⟩ | ⟨_, _, -, -, e⟩ | ⟨bs, _, -, -, e⟩ | ⟨-, e⟩
  · rw [hsome] at hnone
    cases hnone
  · obtain ⟨hscript, hip⟩ := effect_hostKept i s.advance
    exact ⟨_, e.trans (exec_eq_next i s.advance), hip, hscript⟩
  · exact ⟨_, e, rfl, rfl⟩
  · obtain ⟨hscript, hip⟩ := handOverChunk_hostKept config bs s.advance
    exact ⟨_, e, hip, hscript⟩
  · exact ⟨_, e, rfl, rfl⟩

/-- R228: as many steps as there are events left lead to the end of the list. -/
theorem run_core_to_end {n : Nat} {s : State} (hn : s.ip + n = s.script.length) :
    ∃ t : State, Host.Core.run core n s = .next t ∧ t.ip = s.script.length ∧ t.script = s.script := by
  induction n generalizing s with
  | zero => exact ⟨s, rfl, hn, rfl⟩
  | succ n ih =>
    obtain ⟨u, hstep, hip, hscript⟩ := step_advances (s := s) (by omega)
    obtain ⟨t, hrun, hend, hlist⟩ := ih (s := u) (by rw [hip, hscript]; omega)
    exact ⟨t, (run_succ core n hstep).trans hrun, by rw [hend, hscript], by rw [hlist, hscript]⟩

/-! ### One byte -/

theorem State.written_one (s : State) (S : Space) (a : Nat) : s.written S a 1 = ((s.buf S).read? a).isSome := by
  simp [State.written]

theorem State.written_of_le {s : State} {S : Space} {n a k : Nat} (h : s.written S 0 n = true) (hk : a + k ≤ n) :
    s.written S a k = true := by
  rw [State.written_iff] at h ⊢
  intro i hi
  simpa using h (a + i) (by omega)

/-- R47 for a load right after a store, in whichever buffer. -/
theorem readByte_writeByte_same (S : Space) (a : Nat) (v : Byte) (s : State) :
    readByte S a (writeByte S a v s) = { writeByte S a v s with dout := BitVec.ofNat 32 v.toNat } := by
  have h : ((writeByte S a v s).buf S).read? a = some v := by simp [writeByte]
  rw [readByte_of_written h, zext32_eq_ofNat]
  rfl

theorem readByte_unwritten_ofNat {s : State} {S : Space} {a : Nat} (h : (s.buf S).read? a = none) :
    readByte S a s = { s with
      dout := BitVec.ofNat 32 (s.memRead S a).toNat, unwrittenReads := s.unwrittenReads + 1 } := by
  rw [readByte_of_unwritten h, zext32_eq_ofNat]

theorem foldFb_of_unwritten (c : Config) {s : State} {a : Nat} (h : s.fb.read? a = none) :
    foldFb c a s = { s with
      crc := c.crcTable (s.crc ^^^ s.memRead .fb a), unwrittenReads := s.unwrittenReads + 1 } := by
  have hw : s.written .fb a 1 = false := by simp [State.written_one, h]
  rw [foldFb, hw]
  rfl

theorem read?_buf_writeByte_of_ne {S T : Space} {a x : Nat} (h : T = S → x ≠ a) (v : Byte) (s : State) :
    ((writeByte S a v s).buf T).read? x = (s.buf T).read? x := by
  by_cases hT : T = S
  · subst hT
    rw [writeByte, State.setBuf_buf_same, Memory.read?_write_other _ (h rfl)]
  · rw [writeByte, State.setBuf_buf_other s S T hT]

/-! ### Registers an operation does not read

`get` and `put` are a register's contents and its replacement. An operation that does not read the register either
overwrites it with a value that does not depend on it, or leaves it where it stands. -/

section Registers

variable {α : Type}

/-- With another value in the register the operation does the same, the register included. -/
def Overwrites (put : α → State → State) (f : State → State) : Prop :=
  ∀ v s, f (put v s) = f s

/-- With another value in the register the operation does the same to everything else, and the register keeps its
value. -/
def Bypasses (get : State → α) (put : α → State → State) (f : State → State) : Prop :=
  ∀ v s, f (put v s) = put v (f s) ∧ get (f s) = get s

variable {get : State → α} {put : α → State → State} {f g : State → State}

theorem Overwrites.comp_bypasses (hg : Overwrites put g) (hf : Bypasses get put f) : Overwrites put (g ∘ f) :=
  fun v s => (congrArg g (hf v s).1).trans (hg v (f s))

theorem Overwrites.comp_left (hf : Overwrites put f) (g : State → State) : Overwrites put (g ∘ f) :=
  fun v s => congrArg g (hf v s)

theorem Bypasses.comp (hg : Bypasses get put g) (hf : Bypasses get put f) : Bypasses get put (g ∘ f) :=
  fun v s => ⟨(congrArg g (hf v s).1).trans (hg v (f s)).1, (hg v (f s)).2.trans (hf v s).2⟩

end Registers

/-- `STATUS` with any byte in it. -/
def State.putStatus (v : Byte) (s : State) : State := { s with status := v }

theorem decodeOp_bypasses_crc (c : Config) : Bypasses State.crc State.setCrc (decodeOp c) := by
  intro v s
  have h : ∀ r w, ((s.setCrc v).takeResult r).noteRead w = ((s.takeResult r).noteRead w).setCrc v := by
    intro r w
    cases r <;> rfl
  exact ⟨h _ _, (congrArg State.crc (s.takeResult_eq (decodeChunk c s.chunk)) :)⟩

theorem decodeOp_bypasses_dout (c : Config) : Bypasses State.dout State.setDout (decodeOp c) := by
  intro v s
  have h : ∀ r w, ((s.setDout v).takeResult r).noteRead w = ((s.takeResult r).noteRead w).setDout v := by
    intro r w
    cases r <;> rfl
  exact ⟨h _ _, (congrArg State.dout (s.takeResult_eq (decodeChunk c s.chunk)) :)⟩

theorem decodeOp_overwrites_status (c : Config) : Overwrites State.putStatus (decodeOp c) := by
  intro v s
  have h : ∀ r w, ((s.putStatus v).takeResult r).noteRead w = (s.takeResult r).noteRead w := by
    intro r w
    cases r <;> rfl
  exact h _ _

theorem handOverChunk_bypasses_crc (c : Config) (bs : List Byte) :
    Bypasses State.crc State.setCrc (handOverChunk c bs) :=
  have hload : Bypasses State.crc State.setCrc (loadChunk bs) := fun _ _ => ⟨rfl, rfl⟩
  have hread : Bypasses State.crc State.setCrc readStatus := fun _ _ => ⟨rfl, rfl⟩
  hread.comp ((decodeOp_bypasses_crc c).comp hload)

theorem handOverChunk_overwrites_dout (c : Config) (bs : List Byte) :
    Overwrites State.setDout (handOverChunk c bs) :=
  have hload : Bypasses State.dout State.setDout (loadChunk bs) := fun _ _ => ⟨rfl, rfl⟩
  have hread : Overwrites State.setDout readStatus := fun _ _ => rfl
  hread.comp_bypasses ((decodeOp_bypasses_dout c).comp hload)

theorem handOverChunk_overwrites_status (c : Config) (bs : List Byte) :
    Overwrites State.putStatus (handOverChunk c bs) :=
  have hload : Bypasses State.status State.putStatus (loadChunk bs) := fun _ _ => ⟨rfl, rfl⟩
  ((decodeOp_overwrites_status c).comp_bypasses hload).comp_left readStatus

/-- R22: what is no CRC command neither reads nor writes `CRC`. -/
theorem effect_bypasses_crc {i : Instr} (h : usesCrc i = false) : Bypasses State.crc State.setCrc (effect i) := by
  rcases effect_cases i with e | ⟨-, e⟩ <;> rw [e]
  · exact fun _ _ => ⟨rfl, rfl⟩
  cases i with
  | crcClr | crcUpd | crcUpdfb | crcRd => cases h
  | decode => exact decodeOp_bypasses_crc config
  | frame | frameRadioErp1 | frameResponse => exact handOverChunk_bypasses_crc config _
  | _ => exact fun _ _ => ⟨rfl, rfl⟩

/-- R25: what is not `STATUS.RD` does not read `STATUS`. -/
theorem effect_ignores_status {i : Instr} (h : i ≠ .statusRd) :
    Overwrites State.putStatus (effect i) ∨ Bypasses State.status State.putStatus (effect i) := by
  rcases effect_cases i with e | ⟨-, e⟩ <;> rw [e]
  · exact .inl fun _ _ => rfl
  cases i with
  | statusRd => exact absurd rfl h
  | encode => exact .inl fun _ _ => rfl
  | decode => exact .inl (decodeOp_overwrites_status config)
  | frame | frameRadioErp1 | frameResponse => exact .inl (handOverChunk_overwrites_status config _)
  | _ => exact .inr fun _ _ => ⟨rfl, rfl⟩

/-- R23: nothing reads `DOUT`, and only a read command or a frame row writes it. -/
theorem effect_ignores_dout (i : Instr) :
    (writesDout i = true ∧ Overwrites State.setDout (effect i)) ∨ Bypasses State.dout State.setDout (effect i) := by
  rcases effect_cases i with e | ⟨-, e⟩ <;> rw [e]
  · exact .inr fun _ _ => ⟨rfl, rfl⟩
  cases i with
  | crcRd | pktGettype | pktGetdlen | pktGetolen | dataRd | optRd | fbRd | fbGetlen | statusRd =>
    exact .inl ⟨rfl, fun _ _ => rfl⟩
  | decode => exact .inr (decodeOp_bypasses_dout config)
  | frame | frameRadioErp1 | frameResponse => exact .inl ⟨rfl, handOverChunk_overwrites_dout config _⟩
  | _ => exact .inr fun _ _ => ⟨rfl, rfl⟩

/-! ### The buffers, the Packet registers, `FLEN` and `STATUS` -/

/-- R47: a byte of a buffer reads as before unless `ENCODE`, `DECODE`, a frame row or a store to its own address ran. -/
theorem read?_buf_effect {i : Instr} {S : Space} {x : Nat} (s : State) (henc : i ≠ .encode) (hdec : i ≠ .decode)
    (hframe : isFrame i = false) (hdata : ∀ a v, i = .dataWr a v → S = .data → x ≠ a.toNat)
    (hopt : ∀ a v, i = .optWr a v → S = .opt → x ≠ a.toNat)
    (hfb : ∀ a v, i = .fbWr a v → S = .fb → x ≠ a.toNat) :
    ((effect i s).buf S).read? x = (s.buf S).read? x := by
  rcases effect_cases i with e | ⟨-, e⟩ <;> rw [e]
  · rw [State.raise_buf]
  cases i with
  | encode => exact absurd rfl henc
  | decode => exact absurd rfl hdec
  | frame | frameRadioErp1 | frameResponse => cases hframe
  | dataWr a v => exact read?_buf_writeByte_of_ne (hdata a v rfl) v s
  | optWr a v => exact read?_buf_writeByte_of_ne (hopt a v rfl) v s
  | fbWr a v => exact read?_buf_writeByte_of_ne (hfb a v rfl) v s
  | _ => cases S <;> rfl

/-- R219: the other commands write `STATUS` only when they raise `AddressError`. -/
theorem effect_status {i : Instr} (s : State) (henc : i ≠ .encode) (hdec : i ≠ .decode) (hframe : isFrame i = false) :
    (effect i s).status = s.status ∨ (effect i s).status = 6 := by
  rcases effect_cases i with e | ⟨-, e⟩ <;> rw [e]
  · exact .inr rfl
  cases i with
  | encode => exact absurd rfl henc
  | decode => exact absurd rfl hdec
  | frame | frameRadioErp1 | frameResponse => cases hframe
  | _ => exact .inl rfl

theorem DecodeError.toCode_le (e : DecodeError) : (e.toCode.code.setWidth 8).toNat ≤ 5 := by
  cases e <;> decide

theorem decodeOp_status_le (c : Config) (s : State) : (decodeOp c s).status.toNat ≤ 5 := by
  rcases decodeOp_cases c s with ⟨e, -, h⟩ | ⟨p, -, h⟩ <;> rw [h]
  · exact e.toCode_le
  · exact Nat.zero_le 5

/-! ### The model's count of never-written reads (log 4) -/

/-- All the bytes of the three buffers are written. -/
abbrev State.BuffersWritten (s : State) : Prop := ∀ S : Space, s.written S 0 (bufSize S) = true

/-- The count does not fall from `s` to `t`, and stays when `s` meets the invariant and its buffers are written. -/
def CountsUnwritten (s t : State) : Prop :=
  s.unwrittenReads ≤ t.unwrittenReads ∧ (s.Inv → s.BuffersWritten → ValidRun s t)

theorem CountsUnwritten.of_validRun {s t : State} (h : ValidRun s t) : CountsUnwritten s t :=
  ⟨h.ge, fun _ _ => h⟩

theorem CountsUnwritten.noteRead {s t : State} (h : ValidRun s t) {w : Bool}
    (hw : s.Inv → s.BuffersWritten → w = true) : CountsUnwritten s (t.noteRead w) := by
  constructor
  · rw [State.noteRead_unwrittenReads, h]
    split <;> omega
  · intro hs hb
    rw [hw hs hb, State.noteRead_true]
    exact h

theorem takeResult_validRun (s : State) (r : DecodeResult) : ValidRun s (s.takeResult r) :=
  (congrArg State.unwrittenReads (s.takeResult_eq r) :)

/-- `DECODE` reads within the chunk, and the chunk lies within the frame buffer (R133, R29). -/
theorem decodeReach_chunk_le (c : Config) {s : State} (h : s.Inv) : decodeReach c s.chunk ≤ 65797 := by
  obtain ⟨-, -, -, -, -, -, hflen, -⟩ := (State.inv_iff s).1 h
  have hreach := decodeReach_le c s.chunk
  rw [State.chunk, State.length_memReads] at hreach
  exact hreach.trans hflen

theorem handOverChunk_validRun (c : Config) (bs : List Byte) (s : State) : ValidRun s (handOverChunk c bs s) :=
  decodeOp_unwrittenReads_of_written c (chunkWritten_loadChunk bs s)

theorem effect_countsUnwritten (i : Instr) (s : State) : CountsUnwritten s (effect i s) := by
  rcases effect_cases i with e | ⟨ha, e⟩ <;> rw [e]
  · exact .of_validRun rfl
  cases i with
  | crcUpdfb a => exact .noteRead rfl fun _ hb => State.written_of_le (hb .fb) ha
  | dataRd a => exact .noteRead rfl fun _ hb => State.written_of_le (hb .data) a.isLt
  | optRd a => exact .noteRead rfl fun _ hb => State.written_of_le (hb .opt) a.isLt
  | fbRd a => exact .noteRead rfl fun _ hb => State.written_of_le (hb .fb) ha
  | encode =>
    refine .noteRead ?_ fun _ hb => Bool.and_eq_true_iff.2 ⟨?_, ?_⟩
    · simp [ValidRun]
    · exact State.written_of_le (hb .data) (by rw [Nat.zero_add]; exact s.dlen.isLt.le)
    · exact State.written_of_le (hb .opt) (by rw [Nat.zero_add]; exact s.olen.isLt.le)
  | decode =>
    refine .noteRead (takeResult_validRun s _) fun hs hb => State.written_of_le (hb .fb) ?_
    rw [Nat.zero_add]
    exact decodeReach_chunk_le config hs
  | frame | frameRadioErp1 | frameResponse => exact .of_validRun (handOverChunk_validRun config _ s)
  | _ => exact .of_validRun rfl

end Sys2Proof.Machine

open Sys2Proof Sys2Proof.Machine

/-- Settles O12, from the completion of every step. -/
theorem stepKeepsTheInvariant : Obligations.StepKeepsTheInvariant := by
  intro s t hs ht
  obtain ⟨u, hu, hinv⟩ := step_completes s
  obtain rfl := Host.Outcome.next.inj (ht.symm.trans hu)
  exact hinv hs

/-- Settles O9, over everything a step can do. -/
theorem everyEventAdvancesThePositionByOne : Obligations.EveryEventAdvancesThePositionByOne :=
  fun _ => step_advances

/-- Settles O10, by induction on the number of events left. -/
theorem finiteProgramRunsToItsEnd : Obligations.FiniteProgramRunsToItsEnd :=
  fun _ h => run_core_to_end (Nat.add_sub_of_le h)

/-- Settles O20: the other instructions bypass `CRC`. -/
theorem onlyTheCrcCommandsTouchCrc : Obligations.OnlyTheCrcCommandsTouchCrc := by
  intro i s t v hi h
  obtain rfl := eq_effect_of_exec h
  obtain ⟨hother, hcrc⟩ := effect_bypasses_crc hi v s
  exact ⟨hcrc, (exec_eq_next i (s.setCrc v)).trans (congrArg Host.Outcome.next hother)⟩

/-- Settles O42: a load right after a store to its address, then every other command. -/
theorem loadReturnsTheLatestStore : Obligations.LoadReturnsTheLatestStore := by
  intro s t v
  refine ⟨fun a h => ?_, fun a h => ?_, fun a ha h => ?_, fun i S x h henc hdec hframe hdata hopt hfb => ?_⟩
  · obtain rfl := eq_effect_of_exec h
    exact congrArg Host.Outcome.next (readByte_writeByte_same .data a.toNat v s)
  · obtain rfl := eq_effect_of_exec h
    exact congrArg Host.Outcome.next (readByte_writeByte_same .opt a.toNat v s)
  · obtain rfl := Host.Outcome.next.inj ((exec_fbWr_inside ha v s).symm.trans h)
    rw [exec_fbRd_inside ha, readByte_writeByte_same]
  · obtain rfl := eq_effect_of_exec h
    exact read?_buf_effect s henc hdec hframe hdata hopt hfb

/-- Settles O48: the commands in general, then `ENCODE` and `DECODE`. -/
theorem statusIsWrittenOnlyByItsWriters : Obligations.StatusIsWrittenOnlyByItsWriters := by
  refine ⟨fun i s t henc hdec hframe h => ?_, fun s t h => ?_, fun s t h => ?_⟩ <;> obtain rfl := eq_effect_of_exec h
  · exact effect_status s henc hdec hframe
  · exact encodeOp_status config s
  · exact decodeOp_status_le config s

/-- Settles O49: every instruction but `STATUS.RD` overwrites `STATUS` or bypasses it. -/
theorem nothingButStatusReadDependsOnStatus : Obligations.NothingButStatusReadDependsOnStatus := by
  intro i s v hi
  refine ⟨effect i s, effect i (s.putStatus v), exec_eq_next i s, exec_eq_next i (s.putStatus v), ?_⟩
  rcases effect_ignores_status hi with h | h
  · rw [h v s]
    exact ⟨rfl, .inl rfl⟩
  · obtain ⟨hother, hstatus⟩ := h v s
    rw [hother]
    exact ⟨rfl, .inr ⟨hstatus, rfl⟩⟩

/-- Settles O50: every instruction overwrites `DOUT`, being a read, or bypasses it. -/
theorem doutIsWrittenByReadsAndNeverRead : Obligations.DoutIsWrittenByReadsAndNeverRead := by
  intro i s v
  refine ⟨effect i s, effect i (s.setDout v), exec_eq_next i s, exec_eq_next i (s.setDout v), ?_⟩
  rcases effect_ignores_dout i with ⟨hi, h⟩ | h
  · rw [h v s]
    exact ⟨rfl, .inl ⟨hi, rfl⟩, fun hno => absurd (hi.symm.trans hno) (by decide)⟩
  · obtain ⟨hother, hdout⟩ := h v s
    rw [hother]
    exact ⟨rfl, .inr ⟨hdout, rfl⟩, fun _ => hdout⟩

/-- Settles O53: a read within the buffers is a read of written bytes. -/
theorem runsOverWrittenBytesAreValid : Obligations.RunsOverWrittenBytesAreValid := by
  intro i s t h
  obtain rfl := eq_effect_of_exec h
  exact effect_countsUnwritten i s

/-- Settles O5, for a command word and for a chunk. -/
theorem stepRunsDecodedInstruction : Obligations.StepRunsDecodedInstruction :=
  fun _ _ _ => step_of_decode

/-- Settles O7: the step is the block's reset with the host moved on. -/
theorem resetEventResetsTheBlock : Obligations.ResetEventResetsTheBlock :=
  fun s h => ⟨s.advance.resetBlock config, step_of_reset h, rfl, rfl, rfl, rfl, rfl, rfl, rfl,
    fun S _ => by cases S <;> rfl, rfl, rfl, rfl⟩

/-- Settles O8, component by component. -/
theorem resetLeavesTheSpecifiedState : Obligations.ResetLeavesTheSpecifiedState :=
  ⟨rfl, rfl, rfl, rfl, rfl, rfl, rfl, fun S _ => by cases S <;> rfl, rfl, rfl⟩

/-- Settles O11: the reset state is that of the default configuration. -/
theorem resetStateIsWellFormed : Obligations.ResetStateIsWellFormed :=
  inv_resetFor config

/-- Settles O40, from a read after a write in each buffer. -/
theorem byteStoresWriteOneByte : Obligations.ByteStoresWriteOneByte :=
  fun s v => ⟨fun a => ⟨_, rfl, rfl, fun x => Memory.read?_write s.data a.toNat x v⟩,
    fun a => ⟨_, rfl, rfl, fun x => Memory.read?_write s.opt a.toNat x v⟩,
    fun a ha => ⟨_, exec_fbWr_inside ha v s, rfl, fun x => Memory.read?_write s.fb a.toNat x v⟩⟩

/-- Settles O43: the byte is the free value of the read. -/
theorem readsOfUnwrittenBytesComplete : Obligations.ReadsOfUnwrittenBytesComplete := by
  refine fun s => ⟨fun a h => ⟨s.memRead .data a.toNat, ?_⟩, fun a h => ⟨s.memRead .opt a.toNat, ?_⟩,
    fun a ha h => ⟨s.memRead .fb a.toNat, ?_⟩, fun a ha h => ⟨s.memRead .fb a.toNat, ?_⟩⟩
  · exact congrArg Host.Outcome.next (readByte_unwritten_ofNat (S := .data) h)
  · exact congrArg Host.Outcome.next (readByte_unwritten_ofNat (S := .opt) h)
  · exact (exec_fbRd_inside ha s).trans (congrArg Host.Outcome.next (readByte_unwritten_ofNat (S := .fb) h))
  · exact (exec_crcUpdfb_inside ha s).trans (congrArg Host.Outcome.next (foldFb_of_unwritten config h))

/-- Settles O44: the length operand is in range, and `FLEN` reads zero-extended. -/
theorem chunkLengthCommandsComplete : Obligations.ChunkLengthCommandsComplete := by
  refine fun s => ⟨fun n hn => ?_, ?_⟩
  · exact congrArg Host.Outcome.next (withFbLength_inside hn State.setFlen s)
  · rw [← zext32_eq_ofNat]
    rfl

/-- Settles O45: the mask 7 is the remainder modulo 8, which the invariant makes the whole register. -/
theorem statusReadCompletes : Obligations.StatusReadCompletes := by
  intro s
  have hmask : (readStatus s).dout.toNat = s.status.toNat % 8 := by
    rw [readStatus_eq, zext32_eq_ofNat, BitVec.toNat_ofNat, BitVec.toNat_and]
    have h : s.status.toNat &&& 7 = s.status.toNat % 8 := Nat.and_two_pow_sub_one_eq_mod _ 3
    exact (congrArg (· % 2 ^ 32) h).trans (Nat.mod_eq_of_lt (by omega))
  refine ⟨readStatus s, rfl, hmask, rfl, fun hinv => ?_⟩
  obtain ⟨-, -, -, -, -, -, -, hstatus⟩ := (State.inv_iff s).1 hinv
  rw [hmask, Nat.mod_eq_of_lt hstatus]

/-- Settles O51, instruction by instruction: `absurd rfl` stands where the component is as before. -/
theorem registersAndBuffersChangeOnlyByTheirWriters : Obligations.RegistersAndBuffersChangeOnlyByTheirWriters := by
  intro i s t h
  obtain rfl := eq_effect_of_exec h
  have hhost := effect_hostKept i s
  rcases effect_cases i with e | ⟨-, e⟩ <;> rw [e] at hhost ⊢
  · exact ⟨absurd rfl, absurd rfl, absurd rfl, absurd rfl, absurd rfl, absurd rfl, absurd rfl, hhost⟩
  cases i with
  | pktSettype v =>
    exact ⟨fun _ => .inl ⟨v, rfl⟩, absurd rfl, absurd rfl, absurd rfl, absurd rfl, absurd rfl, absurd rfl, hhost⟩
  | pktSetdlen n =>
    exact ⟨absurd rfl, fun _ => .inl ⟨n, rfl⟩, absurd rfl, absurd rfl, absurd rfl, absurd rfl, absurd rfl, hhost⟩
  | pktSetolen v =>
    exact ⟨absurd rfl, absurd rfl, fun _ => .inl ⟨v, rfl⟩, absurd rfl, absurd rfl, absurd rfl, absurd rfl, hhost⟩
  | dataWr a v =>
    exact ⟨absurd rfl, absurd rfl, absurd rfl, absurd rfl, fun _ => .inl ⟨a, v, rfl⟩, absurd rfl, absurd rfl, hhost⟩
  | optWr a v =>
    exact ⟨absurd rfl, absurd rfl, absurd rfl, absurd rfl, absurd rfl, fun _ => .inl ⟨a, v, rfl⟩, absurd rfl, hhost⟩
  | fbSetlen n =>
    exact ⟨absurd rfl, absurd rfl, absurd rfl, fun _ => .inl ⟨n, rfl⟩, absurd rfl, absurd rfl, absurd rfl, hhost⟩
  | fbWr a v =>
    exact ⟨absurd rfl, absurd rfl, absurd rfl, absurd rfl, absurd rfl, absurd rfl, fun _ => .inl ⟨a, v, rfl⟩, hhost⟩
  | encode =>
    have he := encodeOp_eq config s
    exact ⟨absurd (congrArg State.ptype he :), absurd (congrArg State.dlen he :), absurd (congrArg State.olen he :),
      fun _ => .inr (.inl rfl), absurd (congrArg State.data he :), absurd (congrArg State.opt he :),
      fun _ => .inr (.inl rfl), hhost⟩
  | decode =>
    have hr := s.takeResult_eq (decodeChunk config s.chunk)
    exact ⟨fun _ => .inr (.inl rfl), fun _ => .inr (.inl rfl), fun _ => .inr (.inl rfl),
      absurd (congrArg State.flen hr :), fun _ => .inr (.inl rfl), fun _ => .inr (.inl rfl),
      absurd (congrArg State.fb hr :), hhost⟩
  | frame | frameRadioErp1 | frameResponse => simpa [isFrame] using hhost
  | _ => exact ⟨absurd rfl, absurd rfl, absurd rfl, absurd rfl, absurd rfl, absurd rfl, absurd rfl, hhost⟩
end

section
/-!
PROOFS. The memory statements (spec/20_memory.md). A register read, a load of a written byte, and the frame of a Packet
offset by offset; then the four statements.
-/

namespace Sys2Proof.Machine

/-! ### Reads into `DOUT` -/

theorem readReg_eq_ofNat {n : Nat} (v : BitVec n) (s : State) :
    readReg v s = { s with dout := BitVec.ofNat 32 v.toNat } := by
  rw [← zext32_eq_ofNat]
  rfl

theorem readByte_written_ofNat {s : State} {S : Space} {a : Nat} {v : Byte} (h : (s.buf S).read? a = some v) :
    readByte S a s = { s with dout := BitVec.ofNat 32 v.toNat } := by
  rw [readByte_of_written h, zext32_eq_ofNat]
  rfl

/-! ### The frame, offset by offset -/

/-- The two bytes of a 16-bit length, high byte first (R46). -/
theorem be16_ofNat (n : Nat) : be16 (BitVec.ofNat 16 n) = [BitVec.ofNat 8 (n / 256), BitVec.ofNat 8 (n % 256)] := by
  simp only [be16, List.cons.injEq, and_true]
  constructor <;> apply BitVec.eq_of_toNat_eq <;>
    simp only [BitVec.extractLsb'_toNat, Nat.shiftRight_eq_div_pow, BitVec.toNat_ofNat] <;> omega

/-- The frame with the data length as quotient and remainder (R60, R46). -/
theorem encodePacket_eq_layout (c : Config) (p : Packet) :
    encodePacket c p = sync :: BitVec.ofNat 8 (p.data.length / 256) :: BitVec.ofNat 8 (p.data.length % 256) ::
      BitVec.ofNat 8 p.opt.length :: p.ptype :: crc8 c (packetHeader p) ::
      (p.data ++ (p.opt ++ [crc8 c (p.data ++ p.opt)])) := by
  simp [encodePacket, packetHeader, be16_ofNat]

/-- The header checksum covers offsets 1 to 4, which are the header bytes (R67). -/
theorem slice_encodePacket_header (c : Config) (p : Packet) : slice (encodePacket c p) 1 5 = packetHeader p := by
  rw [encodePacket_eq, slice_one_five]
  rfl

/-- From offset 6 on a frame is the two regions and the body checksum (R60). -/
theorem getElem?_encodePacket_body (c : Config) (p : Packet) (k : Nat) :
    (encodePacket c p)[6 + k]? = (p.data ++ (p.opt ++ [crc8 c (p.data ++ p.opt)]))[k]? := by
  rw [encodePacket_eq, Nat.add_comm 6 k]
  rfl

theorem getElem?_encodePacket_data (c : Config) (p : Packet) {i : Nat} (h : i < p.data.length) :
    (encodePacket c p)[6 + i]? = p.data[i]? := by
  rw [getElem?_encodePacket_body, List.getElem?_append_left h]

theorem getElem?_encodePacket_opt (c : Config) (p : Packet) {j : Nat} (h : j < p.opt.length) :
    (encodePacket c p)[6 + p.data.length + j]? = p.opt[j]? := by
  rw [Nat.add_assoc, getElem?_encodePacket_body, List.getElem?_append_right (by omega), Nat.add_sub_cancel_left,
    List.getElem?_append_left h]

theorem getElem?_encodePacket_bodyChecksum (c : Config) (p : Packet) :
    (encodePacket c p)[6 + p.data.length + p.opt.length]? = some (crc8 c (p.data ++ p.opt)) := by
  rw [Nat.add_assoc, getElem?_encodePacket_body, List.getElem?_append_right (by omega), Nat.add_sub_cancel_left,
    List.getElem?_concat_length]

end Sys2Proof.Machine

open Sys2Proof Sys2Proof.Machine

/-- Settles O22: offsets 0 to 5 off the layout, the regions and the body checksum from offset 6 on. The bounds are not
needed, since `BitVec.ofNat` takes the low bits on both sides (log 18). -/
theorem encodedFrameLayout : Obligations.EncodedFrameLayout := by
  intro c p _
  refine ⟨?sync, ?dlenHigh, ?dlenLow, ?olen, ?ptype, ?headerChecksum, fun i => getElem?_encodePacket_data c p,
    fun j => getElem?_encodePacket_opt c p, getElem?_encodePacket_bodyChecksum c p, length_encodePacket c p⟩
  case headerChecksum =>
    rw [slice_encodePacket_header, encodePacket_eq_layout]
    rfl
  all_goals
    rw [encodePacket_eq_layout]
    rfl

/-- Settles O37: the effect of `NOP` is the state itself. -/
theorem nopChangesNothing : Obligations.NopChangesNothing :=
  fun _ => rfl

/-- Settles O39: each of the three is a register read. -/
theorem packetRegisterReadsComplete : Obligations.PacketRegisterReadsComplete :=
  fun s => ⟨congrArg Host.Outcome.next (readReg_eq_ofNat s.ptype s),
    congrArg Host.Outcome.next (readReg_eq_ofNat s.dlen s), congrArg Host.Outcome.next (readReg_eq_ofNat s.olen s)⟩

/-- Settles O41, from a load of a written byte in each buffer. -/
theorem byteLoadsReadWrittenBytes : Obligations.ByteLoadsReadWrittenBytes := by
  refine fun s v => ⟨fun a h => ?data, fun a h => ?opt, fun a ha h => ?fb⟩
  case data => exact congrArg Host.Outcome.next (readByte_written_ofNat (S := .data) h)
  case opt => exact congrArg Host.Outcome.next (readByte_written_ofNat (S := .opt) h)
  case fb => exact (exec_fbRd_inside ha s).trans (congrArg Host.Outcome.next (readByte_written_ofNat (S := .fb) h))
end

section
/-!
PROOFS. The encoding statements (spec/30_encoding.md). First the opcode map row by row: its must-be-zero bits, what a
row's check of a word says, and the word of the command a row builds; then the layout of a frame, read and written; then
the pseudo-commands and the frame rows as runs; then the nine statements.
-/

namespace Sys2Proof

/-! ### The must-be-zero bits of a row -/

/-- The must-be-zero bits of a row of R73: the bits of its mask below `OP`. -/
def CommandRow.mustBeZero (r : CommandRow) : Word := r.mask &&& 0x07FFFFFF

/-- Every row checks `OP` and its must-be-zero bits, `Z` among them, against the bare opcode word (R73). -/
theorem commandTable_checks : ∀ r ∈ commandTable,
    r.mask = opMask ||| r.mustBeZero ∧ r.pattern = commandWord r.op 0 0 ∧ r.mustBeZero &&& opMask = 0 ∧
      zField r.mustBeZero = BitVec.allOnes 2 := by
  decide

/-- The bits below `OP` a row's mask checks are those of the column "must be 0" (R73). -/
theorem mustBeZeroColumn_eq : Machine.mustBeZeroColumn = commandTable.map fun r => (r.op, r.mustBeZero) := by
  decide

theorem commandTable_ops_nodup : (commandTable.map CommandRow.op).Nodup := by
  decide

/-- The ten codes of R74 (a) are those without a row. -/
theorem mem_unassignedOps_iff (op : BitVec 5) : op ∈ Machine.unassignedOps ↔ ∀ r ∈ commandTable, r.op ≠ op := by
  revert op
  decide

/-- A code has at most one row. -/
theorem row_unique {r r' : CommandRow} (hr : r ∈ commandTable) (hr' : r' ∈ commandTable) (h : r.op = r'.op) : r = r' :=
  List.inj_on_of_nodup_map commandTable_ops_nodup hr hr' h

theorem mem_commandTable_of_find? {w : Word} {r : CommandRow}
    (h : commandTable.find? (fun r' => r'.op == opField w) = some r) :
    r ∈ commandTable ∧ r.op = opField w :=
  ⟨List.mem_of_find?_eq_some h, by simpa using List.find?_some h⟩

/-- In a word with the row's `OP` the check of `match` and `mask` is that of the must-be-zero bits. -/
theorem row_check_iff {w : Word} {r : CommandRow} (hr : r ∈ commandTable) (hop : r.op = opField w) :
    w &&& r.mask = r.pattern ↔ w &&& r.mustBeZero = 0 := by
  obtain ⟨hmask, hpattern, hz, -⟩ := commandTable_checks r hr
  rw [hmask, hpattern, and_mask_eq_iff _ _ _ hz]
  exact and_iff_right hop.symm

/-- With a row for the word's `OP`, the word is illegal when it has a must-be-zero bit of that row (R74 b). -/
theorem illegalWord_iff_of_row {w : Word} {r : CommandRow} (hr : r ∈ commandTable) (hop : r.op = opField w) :
    Machine.IllegalWord w ↔ w &&& r.mustBeZero ≠ 0 := by
  have hassigned : opField w ∉ Machine.unassignedOps := fun h => (mem_unassignedOps_iff _).1 h r hr hop
  rw [Machine.IllegalWord, or_iff_right hassigned, mustBeZeroColumn_eq]
  constructor
  · rintro ⟨p, hp, hpop, hbits⟩
    obtain ⟨r', hr', rfl⟩ := List.mem_map.1 hp
    obtain rfl : r' = r := row_unique hr' hr (hpop.trans hop.symm)
    exact hbits
  · exact fun h => ⟨_, List.mem_map_of_mem hr, hop, h⟩

/-- R74: decoding refuses the illegal words and no others. -/
theorem decodeCommand_error_iff (w : Word) : (∃ e, decodeCommand w = .error e) ↔ Machine.IllegalWord w := by
  cases hfind : commandTable.find? (fun r => r.op == opField w) with
  | none =>
    have hno : opField w ∈ Machine.unassignedOps :=
      (mem_unassignedOps_iff _).2 fun r hr => by simpa using List.find?_eq_none.1 hfind r hr
    exact iff_of_true ⟨_, by rw [decodeCommand, hfind]⟩ (.inl hno)
  | some r =>
    obtain ⟨hr, hop⟩ := mem_commandTable_of_find? hfind
    rw [illegalWord_iff_of_row hr hop, ne_eq, ← row_check_iff hr hop, decodeCommand, hfind]
    by_cases h : w &&& r.mask = r.pattern <;> simp [h]

/-! ### The word of the command a row builds -/

/-- The row's command, of operands that leave its must-be-zero bits at 0, is encoded as the row's code with these
operands. -/
def CommandRow.EncodesBuild (r : CommandRow) : Prop :=
  ∀ (a : Word17) (v : Byte), a &&& aField r.mustBeZero = 0 → v &&& vField r.mustBeZero = 0 →
    encode (r.build a v) = .command (commandWord r.op a v)

theorem eq_zero_of_and_allOnes {n : Nat} {x m : BitVec n} (hm : m = BitVec.allOnes n) (h : x &&& m = 0) : x = 0 := by
  rwa [hm, BitVec.and_allOnes] at h

theorem CommandRow.EncodesBuild.of_noOperand {r : CommandRow} (hA : aField r.mustBeZero = BitVec.allOnes 17)
    (hV : vField r.mustBeZero = BitVec.allOnes 8) (he : encode (r.build 0 0) = .command (commandWord r.op 0 0)) :
    r.EncodesBuild := by
  intro a v ha hv
  obtain rfl := eq_zero_of_and_allOnes hA ha
  obtain rfl := eq_zero_of_and_allOnes hV hv
  exact he

theorem CommandRow.EncodesBuild.of_byte {r : CommandRow} (hA : aField r.mustBeZero = BitVec.allOnes 17)
    (he : ∀ v, encode (r.build 0 v) = .command (commandWord r.op 0 v)) : r.EncodesBuild := by
  intro a v ha _
  obtain rfl := eq_zero_of_and_allOnes hA ha
  exact he v

theorem CommandRow.EncodesBuild.of_address {r : CommandRow} (hV : vField r.mustBeZero = BitVec.allOnes 8)
    (he : ∀ a, a &&& aField r.mustBeZero = 0 → encode (r.build a 0) = .command (commandWord r.op a 0)) :
    r.EncodesBuild := by
  intro a v ha hv
  obtain rfl := eq_zero_of_and_allOnes hV hv
  exact he a ha

/-- An operand that the row narrows to 16 bits comes back whole when its top bit is 0. -/
theorem command_setWidth16 {a : Word17} (ha : a &&& 0x10000 = 0) (op : BitVec 5) (v : Byte) :
    HostEvent.command (commandWord op ((a.setWidth 16).setWidth 17) v) = .command (commandWord op a v) := by
  rw [setWidth16_of_top ha]

/-- An operand that the row narrows to 8 bits comes back whole when its top nine bits are 0. -/
theorem command_setWidth8 {a : Word17} (ha : a &&& 0x1FF00 = 0) (op : BitVec 5) (v : Byte) :
    HostEvent.command (commandWord op ((a.setWidth 8).setWidth 17) v) = .command (commandWord op a v) := by
  rw [setWidth8_of_top ha]

theorem crcRows_encodesBuild : ∀ r ∈ crcRows, r.EncodesBuild := by
  simp only [crcRows, List.forall_mem_cons]
  refine ⟨?nop, ?crcClr, ?crcUpd, ?crcUpdfb, ?crcRd, List.forall_mem_nil _⟩
  case crcUpd => exact .of_byte (by decide) fun _ => rfl
  case crcUpdfb => exact .of_address (by decide) fun _ _ => rfl
  all_goals exact .of_noOperand (by decide) (by decide) rfl

theorem packetRows_encodesBuild : ∀ r ∈ packetRows, r.EncodesBuild := by
  simp only [packetRows, List.forall_mem_cons]
  refine ⟨?settype, ?setdlen, ?setolen, ?gettype, ?getdlen, ?getolen, List.forall_mem_nil _⟩
  case settype | setolen => exact .of_byte (by decide) fun _ => rfl
  case setdlen => exact .of_address (by decide) fun _ ha => command_setWidth16 ha _ _
  all_goals exact .of_noOperand (by decide) (by decide) rfl

theorem bufferRows_encodesBuild : ∀ r ∈ bufferRows, r.EncodesBuild := by
  simp only [bufferRows, List.forall_mem_cons]
  refine ⟨?dataWr, ?dataRd, ?optWr, ?optRd, ?fbWr, ?fbRd, ?fbSetlen, ?fbGetlen, List.forall_mem_nil _⟩
  case dataWr => exact fun _ _ ha _ => command_setWidth16 ha _ _
  case dataRd => exact .of_address (by decide) fun _ ha => command_setWidth16 ha _ _
  case optWr => exact fun _ _ ha _ => command_setWidth8 ha _ _
  case optRd => exact .of_address (by decide) fun _ ha => command_setWidth8 ha _ _
  case fbWr => exact fun _ _ _ _ => rfl
  case fbRd | fbSetlen => exact .of_address (by decide) fun _ _ => rfl
  case fbGetlen => exact .of_noOperand (by decide) (by decide) rfl

theorem codecRows_encodesBuild : ∀ r ∈ codecRows, r.EncodesBuild := by
  simp only [codecRows, List.forall_mem_cons]
  refine ⟨?encode, ?decode, ?statusRd, List.forall_mem_nil _⟩
  all_goals exact .of_noOperand (by decide) (by decide) rfl

theorem commandTable_encodesBuild : ∀ r ∈ commandTable, r.EncodesBuild :=
  List.forall_mem_append.2 ⟨crcRows_encodesBuild, List.forall_mem_append.2 ⟨packetRows_encodesBuild,
    List.forall_mem_append.2 ⟨bufferRows_encodesBuild, codecRows_encodesBuild⟩⟩⟩

/-- A command's operand widths already exclude every operand its word cannot carry (R72). -/
theorem wellFormed_of_encode_command {i : Instr} {w : Word} (h : encode i = .command w) : i.WellFormed := by
  cases i with
  | frame | frameRadioErp1 | frameResponse => cases h
  | _ => rfl

/-- R75: a word that decodes is the encoding of what it decodes to, so no bit of it is dropped. -/
theorem encode_of_decodeCommand {w : Word} {i : Instr} (h : decodeCommand w = .ok i) : encode i = .command w := by
  obtain ⟨r, hfind, hcheck, rfl⟩ := decodeCommand_inv h
  obtain ⟨hr, hop⟩ := mem_commandTable_of_find? hfind
  obtain ⟨-, -, -, hzbits⟩ := commandTable_checks r hr
  obtain ⟨-, hz, ha, hv⟩ := (and_eq_zero_iff w r.mustBeZero).1 ((row_check_iff hr hop).1 hcheck)
  rw [commandTable_encodesBuild r hr _ _ ha hv, hop, commandWord_fields (eq_zero_of_and_allOnes hzbits hz)]

/-- A command whose own row builds it from its operands is what its word decodes to. -/
theorem decode_encode_of_row {i : Instr} {op : BitVec 5} {a : Word17} {v : Byte} {r : CommandRow}
    (hrow : Laws.OwnRow.Statement i) (he : encode i = .command (commandWord op a v))
    (hr : commandTable.find? (fun r' => r'.op == op) = some r) (hbuild : r.build a v = i) :
    decode (encode i) = .ok i := by
  simp only [Laws.OwnRow.Statement, he] at hrow
  obtain ⟨r', -, hfind, hcheck⟩ := hrow
  obtain rfl : r' = r := Option.some.inj (hfind.symm.trans (by rw [opField_commandWord, hr]))
  rw [he, decode, decodeCommand, hfind]
  dsimp only
  rw [if_pos hcheck, aField_commandWord, vField_commandWord, hbuild]

theorem setWidth17_setWidth16 (n : Word16) : (n.setWidth 17).setWidth 16 = n := by
  rw [BitVec.setWidth_setWidth_of_le n (by decide), BitVec.setWidth_eq]

theorem setWidth17_setWidth8 (n : Byte) : (n.setWidth 17).setWidth 8 = n := by
  rw [BitVec.setWidth_setWidth_of_le n (by decide), BitVec.setWidth_eq]

/-- R75 for the commands: their words decode to them, operands and all. -/
theorem decode_encode_command {i : Instr} (hi : Machine.isFrame i = false) : decode (encode i) = .ok i := by
  cases i with
  | frame | frameRadioErp1 | frameResponse => cases hi
  | nop => exact decode_encode_of_row Laws.OwnRow.nop rfl rfl rfl
  | crcClr => exact decode_encode_of_row Laws.OwnRow.crcClr rfl rfl rfl
  | crcUpd v => exact decode_encode_of_row (Laws.OwnRow.crcUpd v) rfl rfl rfl
  | crcUpdfb a => exact decode_encode_of_row (Laws.OwnRow.crcUpdfb a) rfl rfl rfl
  | crcRd => exact decode_encode_of_row Laws.OwnRow.crcRd rfl rfl rfl
  | pktSettype v => exact decode_encode_of_row (Laws.OwnRow.pktSettype v) rfl rfl rfl
  | pktSetdlen n =>
    exact decode_encode_of_row (Laws.OwnRow.pktSetdlen n) rfl rfl
      (congrArg Instr.pktSetdlen (setWidth17_setWidth16 n))
  | pktSetolen v => exact decode_encode_of_row (Laws.OwnRow.pktSetolen v) rfl rfl rfl
  | pktGettype => exact decode_encode_of_row Laws.OwnRow.pktGettype rfl rfl rfl
  | pktGetdlen => exact decode_encode_of_row Laws.OwnRow.pktGetdlen rfl rfl rfl
  | pktGetolen => exact decode_encode_of_row Laws.OwnRow.pktGetolen rfl rfl rfl
  | dataWr a v =>
    exact decode_encode_of_row (Laws.OwnRow.dataWr a v) rfl rfl
      (congrArg (Instr.dataWr · v) (setWidth17_setWidth16 a))
  | dataRd a =>
    exact decode_encode_of_row (Laws.OwnRow.dataRd a) rfl rfl (congrArg Instr.dataRd (setWidth17_setWidth16 a))
  | optWr a v =>
    exact decode_encode_of_row (Laws.OwnRow.optWr a v) rfl rfl (congrArg (Instr.optWr · v) (setWidth17_setWidth8 a))
  | optRd a =>
    exact decode_encode_of_row (Laws.OwnRow.optRd a) rfl rfl (congrArg Instr.optRd (setWidth17_setWidth8 a))
  | fbWr a v => exact decode_encode_of_row (Laws.OwnRow.fbWr a v) rfl rfl rfl
  | fbRd a => exact decode_encode_of_row (Laws.OwnRow.fbRd a) rfl rfl rfl
  | fbSetlen n => exact decode_encode_of_row (Laws.OwnRow.fbSetlen n) rfl rfl rfl
  | fbGetlen => exact decode_encode_of_row Laws.OwnRow.fbGetlen rfl rfl rfl
  | encode => exact decode_encode_of_row Laws.OwnRow.encode rfl rfl rfl
  | decode => exact decode_encode_of_row Laws.OwnRow.decode rfl rfl rfl
  | statusRd => exact decode_encode_of_row Laws.OwnRow.statusRd rfl rfl rfl

/-! ### The layout of a frame -/

/-- A chunk as long as its length fields say is read as its regions and its two checksum bytes (R60). -/
theorem decodeFrame_of_length {dh dl ol : Byte} (t h : Byte) {rest : List Byte}
    (hlen : rest.length = Machine.unbe16 dh dl + ol.toNat + 1) :
    decodeFrame (Machine.sync :: dh :: dl :: ol :: t :: h :: rest) =
      .ok (frameRow t h (Machine.slice rest 0 (Machine.unbe16 dh dl))
        (Machine.slice rest (Machine.unbe16 dh dl) (Machine.unbe16 dh dl + ol.toNat))
        (Machine.byteAt rest (Machine.unbe16 dh dl + ol.toNat))) := by
  rw [decodeFrame, if_neg (not_not.2 rfl), if_neg (not_not.2 hlen)]

/-- The chunk with its regions told apart: data `d`, optional data `o` and the body checksum `b`. -/
theorem decodeFrame_of_regions {dh dl ol : Byte} (t h : Byte) {d o : List Byte} (b : Byte)
    (hd : Machine.unbe16 dh dl = d.length) (ho : ol.toNat = o.length) :
    decodeFrame (Machine.sync :: dh :: dl :: ol :: t :: h :: (d ++ (o ++ [b]))) = .ok (frameRow t h d o b) := by
  have hdata : Machine.slice (d ++ (o ++ [b])) 0 d.length = d := by simp [Machine.slice]
  have hopt : Machine.slice (d ++ (o ++ [b])) d.length (d.length + o.length) = o := by simp [Machine.slice]
  have hlast : Machine.byteAt (d ++ (o ++ [b])) (d.length + o.length) = b := by simp [Machine.byteAt]
  have hlen : (d ++ (o ++ [b])).length = Machine.unbe16 dh dl + ol.toNat + 1 := by simp [hd, ho, Nat.add_assoc]
  rw [decodeFrame_of_length t h hlen, hd, ho, hdata, hopt, hlast]

/-- A sequence of the right length has the three regions. -/
theorem exists_regions {rest : List Byte} {n m : Nat} (hlen : rest.length = n + m + 1) :
    ∃ (d o : List Byte) (b : Byte), d.length = n ∧ o.length = m ∧ rest = d ++ (o ++ [b]) := by
  rcases List.eq_nil_or_concat' rest with rfl | ⟨l, b, rfl⟩
  · cases hlen
  have hl : l.length = n + m := by simpa using hlen
  refine ⟨l.take n, l.drop n, b, by simp [hl], by simp [hl], ?_⟩
  rw [← List.append_assoc, List.take_append_drop]

/-- The bytes of a frame row read back as the row of its type (R60, R65). -/
theorem decodeFrame_frameBytes {d o : List Byte} (hfit : lengthsFit d o = true) (t h b : Byte) :
    decodeFrame (frameBytes t h d o b) = .ok (frameRow t h d o b) := by
  obtain ⟨hd, ho⟩ := (Machine.lengthsFit_iff d o).1 hfit
  have hdlen : (BitVec.ofNat 16 d.length).toNat = d.length := Nat.mod_eq_of_lt (Nat.lt_succ_of_le hd)
  have holen : (BitVec.ofNat 8 o.length).toNat = o.length := Nat.mod_eq_of_lt (Nat.lt_succ_of_le ho)
  exact decodeFrame_of_regions t h b ((Machine.unbe16_be16 _).trans hdlen) holen

/-- R60: a chunk that decodes is the frame of the row it decodes to, with regions that fit their length fields. -/
theorem decodeFrame_inv {bs : List Byte} {i : Instr} (hdec : decodeFrame bs = .ok i) :
    ∃ (t h : Byte) (d o : List Byte) (b : Byte),
      lengthsFit d o = true ∧ bs = frameBytes t h d o b ∧ i = frameRow t h d o b := by
  have hlayout : ∃ (dh dl ol t h : Byte) (rest : List Byte),
      bs = Machine.sync :: dh :: dl :: ol :: t :: h :: rest ∧
      rest.length = Machine.unbe16 dh dl + ol.toNat + 1 := by
    unfold decodeFrame at hdec
    split at hdec
    case h_1 s dh dl ol t h rest =>
      split_ifs at hdec with hsync hlen
      exact ⟨dh, dl, ol, t, h, rest, by rw [not_not.1 hsync], not_not.1 hlen⟩
    case h_2 => cases hdec
  obtain ⟨dh, dl, ol, t, h, rest, rfl, hlen⟩ := hlayout
  obtain ⟨d, o, b, hd, ho, rfl⟩ := exists_regions hlen
  rw [decodeFrame_of_regions t h b hd.symm ho.symm] at hdec
  refine ⟨t, h, d, o, b, (Machine.lengthsFit_iff d o).2 ⟨?_, ?_⟩, ?_, (Except.ok.inj hdec).symm⟩
  · exact hd ▸ Machine.unbe16_lt dh dl
  · exact ho ▸ Nat.le_of_lt_succ ol.isLt
  · rw [frameBytes, hd, ho, Machine.be16_unbe16, BitVec.ofNat_toNat, BitVec.setWidth_eq]
    rfl

/-- The row of a type encodes to the frame of that type (R65). -/
theorem encode_frameRow (t h : Byte) (d o : List Byte) (b : Byte) :
    encode (frameRow t h d o b) = .chunk (frameBytes t h d o b) := by
  unfold frameRow
  split_ifs with h₁ h₂
  · rw [h₁, encode]
  · rw [h₂, encode]
  · rfl

theorem wellFormed_frameRow (t h : Byte) (d o : List Byte) (b : Byte) :
    (frameRow t h d o b).wellFormed = lengthsFit d o := by
  unfold frameRow
  split_ifs with h₁ h₂
  · rfl
  · rfl
  · simp [Instr.wellFormed, h₁, h₂]

/-- A frame row stands for the frames of its own type only (R65). -/
theorem frameRow_of_wellFormed {t h : Byte} {d o : List Byte} {b : Byte} (hw : (Instr.frame t h d o b).WellFormed) :
    frameRow t h d o b = .frame t h d o b ∧ lengthsFit d o = true := by
  simp only [Instr.WellFormed, Instr.wellFormed, Bool.and_eq_true, bne_iff_ne] at hw
  obtain ⟨⟨h₁, h₂⟩, hfit⟩ := hw
  exact ⟨by rw [frameRow, if_neg h₁, if_neg h₂], hfit⟩

theorem encode_of_decodeFrame {bs : List Byte} {i : Instr} (hdec : decodeFrame bs = .ok i) :
    i.WellFormed ∧ encode i = .chunk bs := by
  obtain ⟨t, h, d, o, b, hfit, rfl, rfl⟩ := decodeFrame_inv hdec
  exact ⟨(wellFormed_frameRow t h d o b).trans hfit, encode_frameRow t h d o b⟩

end Sys2Proof

namespace Sys2Proof.Machine

/-! ### The checksum pseudo-commands -/

theorem foldsBytes_map_crcUpd (m : Memory) (bs : List Byte) :
    List.Forall₂ (FoldsByte m) (bs.map Instr.crcUpd) bs :=
  List.forall₂_map_left_iff.2 (List.forall₂_same.2 fun _ _ => .inl rfl)

/-- The commands `CRC8FB a, n` repeats fold the bytes the frame buffer holds from address `a` on (R77, R97). -/
theorem foldsBytes_repeatFor_crcUpdfb {m : Memory} {a : Nat} {bs : List Byte} (hfit : a + bs.length ≤ 65797)
    (hm : ∀ i < bs.length, m.read? (a + i) = bs[i]?) :
    List.Forall₂ (FoldsByte m) (repeatFor bs.length fun i => .crcUpdfb (BitVec.ofNat 17 (a + i))) bs := by
  refine List.forall₂_iff_get.2 ⟨by simp [repeatFor], fun i _ hi => .inr ⟨BitVec.ofNat 17 (a + i), ?_⟩⟩
  have haddr : (BitVec.ofNat 17 (a + i)).toNat = a + i := toNat_ofNat_of_le_fbSize (by omega)
  rw [haddr, hm i hi]
  exact ⟨by omega, by simp [repeatFor], by simp [hi]⟩

/-! ### `PKT.LOAD` -/

theorem exec_dataWr_ofNat {i : Nat} (hi : i < 65536) (v : Byte) (s : State) :
    exec (.dataWr (BitVec.ofNat 16 i) v) s = .next (writeByte .data i v s) := by
  have haddr : (BitVec.ofNat 16 i).toNat = i := Nat.mod_eq_of_lt hi
  rw [exec, execDataWr, haddr]

theorem exec_optWr_ofNat {i : Nat} (hi : i < 256) (v : Byte) (s : State) :
    exec (.optWr (BitVec.ofNat 8 i) v) s = .next (writeByte .opt i v s) := by
  have haddr : (BitVec.ofNat 8 i).toNat = i := Nat.mod_eq_of_lt hi
  rw [exec, execOptWr, haddr]

/-- The state `PKT.LOAD` leaves: the Packet in its registers and buffers (R77). -/
def State.putPacket (p : Packet) (s : State) : State :=
  { s with
    ptype := p.ptype, dlen := BitVec.ofNat 16 p.data.length, olen := BitVec.ofNat 8 p.opt.length,
    data := s.data.writes 0 p.data, opt := s.opt.writes 0 p.opt }

theorem packetLoaded_putPacket {p : Packet} (hp : p.Bounded) (s : State) : PacketLoaded p s (s.putPacket p) :=
  have ⟨hd, ho⟩ := toNat_ofNat_of_bounded hp
  ⟨rfl, hd, ho, Memory.holdsOver_writes _ _, Memory.holdsOver_writes _ _⟩

theorem execAll_expandPktLoad {p : Packet} (hp : p.Bounded) (s : State) :
    execAll (expandPktLoad p) s = .next (s.putPacket p) := by
  obtain ⟨hd, ho⟩ := hp
  have hdata := execAllBy_repeatFor_writeByte (run := exec) (bs := p.data)
    (fun i hi => exec_dataWr_ofNat (Nat.lt_succ_of_le (hi.le.trans hd)) (byteAt p.data i)) le_rfl
  have hopt := execAllBy_repeatFor_writeByte (run := exec) (bs := p.opt)
    (fun i hi => exec_optWr_ofNat (Nat.lt_succ_of_le (hi.le.trans ho)) (byteAt p.opt i)) le_rfl
  rw [execAll, expandPktLoad, execAllBy_cons rfl, execAllBy_cons rfl, execAllBy_cons rfl,
    execAllBy_append _ _ (hdata _), hopt, List.take_length, List.take_length]
  rfl

/-! ### Handing over a chunk -/

theorem chunkLoaded_writes {bs : List Byte} (h : bs.length ≤ 65797) (s : State) :
    ChunkLoaded bs s { s with fb := s.fb.writes 0 bs, flen := BitVec.ofNat 17 bs.length } :=
  ⟨toNat_ofNat_of_le_fbSize h, Memory.holdsOver_writes _ _⟩

/-- Of an over-long chunk only the first `FB_SIZE` bytes are loaded (R136). -/
theorem handOverChunk_take (c : Config) (bs : List Byte) (s : State) :
    handOverChunk c (bs.take fbSize) s = handOverChunk c bs s := by
  simp only [handOverChunk, loadChunk, List.take_take, min_self]

/-- A frame row is the handing over of its frame (R227). -/
theorem exec_of_encode_chunk {i : Instr} {bs : List Byte} (h : encode i = .chunk bs) (s : State) :
    exec i s = .next (handOverChunk config bs s) := by
  cases i with
  | frame | frameRadioErp1 | frameResponse => cases h; rfl
  | _ => cases h

/-- R227: a chunk is handed over, whether it is one frame or not. -/
theorem step_of_chunk {s : State} {bs : List Byte} (he : s.nextEvent? = some (.chunk bs)) :
    step s = .next (handOverChunk config bs s.advance) := by
  cases hd : decodeFrame bs with
  | ok i => exact (step_of_decode he hd).trans (exec_of_encode_chunk (encode_of_decodeFrame hd).2 s.advance)
  | error r => simp only [step, stepBy, he, runEventBy, hd, rejectChunk]

/-- The row that stands for a frame, the generic one or the one of its type, hands the frame over (R65, R227). -/
theorem exec_row_of_frame {i : Instr} {t h : Byte} {d o : List Byte} {b : Byte}
    (hi : i = .frame t h d o b ∨ (t = 0x01 ∧ i = .frameRadioErp1 h d o b) ∨ (t = 0x02 ∧ i = .frameResponse h d o b))
    (s : State) : exec i s = .next (handOverChunk config (frameBytes t h d o b) s) := by
  rcases hi with rfl | ⟨rfl, rfl⟩ | ⟨rfl, rfl⟩ <;> exact exec_of_encode_chunk rfl s

theorem handOverChunk_of_err {c : Config} {bs : List Byte} {e : DecodeError} (hlen : bs.length ≤ 65797)
    (hdec : decodeChunk c bs = .err e) (s : State) :
    handOverChunk c bs s = { s with
      fb := s.fb.writes 0 bs, flen := BitVec.ofNat 17 bs.length,
      status := e.toCode.code.setWidth 8, dout := e.toCode.code.setWidth 32 } := by
  have htake : bs.take fbSize = bs := List.take_of_length_le hlen
  have hcases := handOverChunk_cases c bs s
  simp only [htake, hdec] at hcases
  obtain ⟨e', he, h⟩ | ⟨p, hp, -⟩ := hcases
  · cases he
    exact h
  · cases hp

theorem handOverChunk_of_ok {c : Config} {bs : List Byte} {p : Packet} (hlen : bs.length ≤ 65797)
    (hdec : decodeChunk c bs = .ok p) (s : State) :
    handOverChunk c bs s = { s with
      fb := s.fb.writes 0 bs, flen := BitVec.ofNat 17 bs.length,
      ptype := p.ptype, dlen := BitVec.ofNat 16 p.data.length, olen := BitVec.ofNat 8 p.opt.length,
      data := s.data.writes 0 p.data, opt := s.opt.writes 0 p.opt, status := 0, dout := 0 } := by
  have htake : bs.take fbSize = bs := List.take_of_length_le hlen
  have hcases := handOverChunk_cases c bs s
  simp only [htake, hdec] at hcases
  obtain ⟨e, he, -⟩ | ⟨q, hq, h⟩ := hcases
  · cases he
  · cases hq
    exact h

/-! ### The round trip of a Packet -/

theorem length_encodePacket_le (c : Config) {p : Packet} (hp : p.Bounded) : (encodePacket c p).length ≤ 65797 := by
  obtain ⟨hd, ho⟩ := hp
  simp only [dlenMax, olenMax] at hd ho
  rw [length_encodePacket]
  omega

/-- The length fields of a frame are the lengths of the Packet (R63, R64). -/
theorem chunkLens_encodePacket (c : Config) {p : Packet} (hp : p.Bounded) :
    chunkDlen (encodePacket c p) = p.data.length ∧ chunkOlen (encodePacket c p) = p.opt.length := by
  obtain ⟨hd, ho⟩ := toNat_ofNat_of_bounded hp
  rw [encodePacket_eq]
  exact ⟨(unbe16_be16 _).trans hd, ho⟩

/-- The regions of a frame, from offset 6 on, are slices of data, optional data and body checksum (R60). -/
theorem slice_encodePacket_body (c : Config) (p : Packet) (i j : Nat) :
    slice (encodePacket c p) (6 + i) (6 + j) = slice (p.data ++ (p.opt ++ [crc8 c (p.data ++ p.opt)])) i j := by
  rw [slice, slice, Nat.add_sub_add_left, ← List.drop_drop, encodePacket_eq]
  rfl

theorem slice_encodePacket_data (c : Config) (p : Packet) :
    slice (encodePacket c p) 6 (6 + p.data.length) = p.data := by
  rw [slice_encodePacket_body c p 0]
  simp [slice]

theorem slice_encodePacket_opt (c : Config) (p : Packet) :
    slice (encodePacket c p) (6 + p.data.length) (6 + p.data.length + p.opt.length) = p.opt := by
  rw [Nat.add_assoc, slice_encodePacket_body]
  simp [slice]

/-- The body checksum covers the two regions (R68). -/
theorem slice_encodePacket_regions (c : Config) (p : Packet) :
    slice (encodePacket c p) 6 (6 + p.data.length + p.opt.length) = p.data ++ p.opt := by
  rw [Nat.add_assoc, slice_encodePacket_body c p 0, ← List.append_assoc]
  exact List.take_left' List.length_append

theorem byteAt_encodePacket_bodyChecksum (c : Config) (p : Packet) :
    byteAt (encodePacket c p) (6 + p.data.length + p.opt.length) = crc8 c (p.data ++ p.opt) := by
  rw [byteAt, List.getD_eq_getElem?_getD, getElem?_encodePacket_bodyChecksum, Option.getD_some]

/-- Offsets 0, 4 and 5 of a frame: the sync byte, the type and the header checksum (R60). -/
theorem byteAt_encodePacket_header (c : Config) (p : Packet) :
    byteAt (encodePacket c p) 0 = sync ∧ byteAt (encodePacket c p) 4 = p.ptype ∧
      byteAt (encodePacket c p) 5 = crc8 c (packetHeader p) := by
  rw [encodePacket_eq]
  exact ⟨rfl, rfl, rfl⟩

/-- R137: the frame of a Packet with at least one byte passes the five checks and decodes to the Packet. -/
theorem decodeChunk_encodePacket (c : Config) {p : Packet} (hp : p.Bounded)
    (hbyte : 1 ≤ p.data.length + p.opt.length) : decodeChunk c (encodePacket c p) = .ok p := by
  obtain ⟨hd, ho⟩ := chunkLens_encodePacket c hp
  obtain ⟨hsync, htype, hhead⟩ := byteAt_encodePacket_header c p
  have hend : bodyEnd (encodePacket c p) = 6 + p.data.length + p.opt.length := by rw [bodyEnd, hd, ho]
  have hlen := length_encodePacket c p
  have hlong : ¬ (encodePacket c p).length < minChunk := by rw [hlen, minChunk]; omega
  have hwhole : ¬ (encodePacket c p).length < overhead + p.data.length + p.opt.length := by rw [hlen, overhead]; omega
  rw [decodeChunk, hend, hd, ho, hsync, hhead, htype, slice_encodePacket_header, slice_encodePacket_regions,
    slice_encodePacket_data, slice_encodePacket_opt, byteAt_encodePacket_bodyChecksum, if_neg hlong,
    if_neg (not_not.2 rfl), if_neg (not_not.2 rfl), if_neg hwhole, if_neg (not_not.2 rfl)]

end Sys2Proof.Machine

open Sys2Proof Sys2Proof.Machine

/-- Settles O1: a command by its own row of the opcode map, a frame row by the layout of its frame. -/
theorem decodeOfEncodeGivesInstruction : Obligations.DecodeOfEncodeGivesInstruction := by
  intro i hw
  cases i with
  | frame t h d o b =>
    obtain ⟨hrow, hfit⟩ := frameRow_of_wellFormed hw
    exact (decodeFrame_frameBytes hfit t h b).trans (congrArg Except.ok hrow)
  | frameRadioErp1 h d o b => exact decodeFrame_frameBytes hw typeRadioErp1 h b
  | frameResponse h d o b => exact decodeFrame_frameBytes hw typeResponse h b
  | _ => exact decode_encode_command rfl

/-- Settles O2: a word by the row it was found in, a chunk by its layout; the reset event does not decode. -/
theorem encodeOfDecodeGivesEvent : Obligations.EncodeOfDecodeGivesEvent := by
  intro e i h
  cases e with
  | command w =>
    have he := encode_of_decodeCommand h
    exact ⟨wellFormed_of_encode_command he, he⟩
  | chunk bs => exact encode_of_decodeFrame h
  | reset => cases h

/-- Settles O3: a word is refused when it has no row or fails its row's check. -/
theorem illegalWordsAreThoseOfTheOpcodeMap : Obligations.IllegalWordsAreThoseOfTheOpcodeMap :=
  ⟨decodeCommand_error_iff, rfl⟩

/-- Settles O19: the commands of either expansion fold the bytes one by one. -/
theorem crc8PseudoCommandComputesCrc8 : Obligations.Crc8PseudoCommandComputesCrc8 := by
  refine ⟨fun s bs => ?_, fun s a bs hfit hm => ?_⟩ <;> rw [execAll_eq_execAllFor]
  · exact execAllFor_crcClr_crcRd_of_foldsBytes config (foldsBytes_map_crcUpd s.fb bs)
  · exact execAllFor_crcClr_crcRd_of_foldsBytes config (foldsBytes_repeatFor_crcUpdfb hfit hm)

/-- Settles O54: the step hands the chunk over, and so do the commands, of its first `FB_SIZE` bytes. -/
theorem handedOverChunkIsTheCommandSequence : Obligations.HandedOverChunkIsTheCommandSequence := by
  intro s bs he
  rw [step_of_chunk he, execAll_eq_execAllFor, execAllFor_handOverChunk config (List.length_take_le _ _)]
  exact congrArg Host.Outcome.next (handOverChunk_take config bs s.advance).symm

/-- Settles O55: three register writes, then the stores of either region. -/
theorem packetPseudoCommandLoadsThePacket : Obligations.PacketPseudoCommandLoadsThePacket :=
  fun s p hp => ⟨s.putPacket p, execAll_expandPktLoad hp s, packetLoaded_putPacket hp s, rfl⟩

/-- Settles O56: the row's bytes are the frame of the Packet, which decodes to the Packet. -/
theorem frameRowsLoadThePacket : Obligations.FrameRowsLoadThePacket := by
  intro s p hp hbyte i hi
  have hlen := length_encodePacket_le config hp
  have hexec := exec_row_of_frame hi s
  rw [frameBytes_packet, handOverChunk_of_ok hlen (decodeChunk_encodePacket config hp hbyte)] at hexec
  exact ⟨_, hexec, chunkLoaded_writes hlen s, packetLoaded_putPacket hp s, rfl, rfl, rfl, rfl, rfl, rfl⟩

/-- Settles O57: the row's bytes are handed over, and `DECODE` raises the error. -/
theorem rejectedFrameRowsKeepThePacket : Obligations.RejectedFrameRowsKeepThePacket := by
  intro s t₀ h d o b e hfit hdec i hi
  have hlen : (frameBytes t₀ h d o b).length ≤ 65797 := length_frameBytes_le hfit
  have hexec := exec_row_of_frame hi s
  rw [handOverChunk_of_err hlen hdec] at hexec
  exact ⟨_, hexec, chunkLoaded_writes hlen s, rfl, rfl, rfl⟩

/-- Settles O4: the single words and the frame by evaluation, the radio telegram by the layout of a frame. -/
theorem specWordsDecode : Obligations.SpecWordsDecode :=
  ⟨rfl, rfl, rfl, rfl, rfl, rfl, rfl, rfl, rfl, fun h _ hlen => decodeFrame_of_length 0x01 h hlen⟩
end

section
/-!
PROOFS. The checksum statements (spec/40_crc8.md). The default table is eight shift steps of its polynomial (R92), each
linear over exclusive or, so the table is linear; linearity, the bijection and the laws of R93 follow. Then the six
statements.
-/

namespace Sys2Proof.Machine

open Function (Semiconj₂)

/-! ### The default table -/

/-- One of the eight steps of R92: shift left, and exclusive-or with the polynomial when bit 7 drops out. -/
def polyShift (x : Byte) : Byte := (x <<< 1) ^^^ (if x.msb then 0x07 else 0)

/-- R92: the printed table is the one the polynomial makes. -/
theorem t07_eq_polyShift_iterate : t07 = polyShift^[8] :=
  funext (by decide)

theorem polyShift_xor : Semiconj₂ polyShift (· ^^^ ·) (· ^^^ ·) := by
  intro x y
  have hdropped : ∀ p q : Bool, (if p ^^ q then (0x07 : Byte) else 0) =
      (if p then 0x07 else 0) ^^^ (if q then 0x07 else 0) := by decide
  simp only [polyShift, BitVec.shiftLeft_xor_distrib, BitVec.msb_xor, hdropped]
  ac_rfl

theorem t07_xor (x y : Byte) : t07 (x ^^^ y) = t07 x ^^^ t07 y := by
  rw [t07_eq_polyShift_iterate]
  exact polyShift_xor.iterate 8 x y

theorem t07_zero : t07 0 = 0 := rfl

theorem eq_zero_of_t07_eq_zero : ∀ x : Byte, t07 x = 0 → x = 0 := by
  decide

/-- R93 (e): by linearity, two bytes with one entry differ by a byte whose entry is 0. -/
theorem t07_injective (x y : Byte) (h : t07 x = t07 y) : x = y := by
  have hdiff : t07 (x ^^^ y) = 0 := (t07_xor x y).trans (h ▸ BitVec.xor_self)
  exact BitVec.xor_eq_zero_iff.1 (eq_zero_of_t07_eq_zero _ hdiff)

/-! ### The checksum -/

theorem crc8_append (c : Config) (a b : List Byte) : crc8 c (a ++ b) = crcFold c (crc8 c a) b :=
  crcFold_append c c.crcInit a b

theorem crc8_append_singleton (c : Config) (a : List Byte) (b : Byte) :
    crc8 c (a ++ [b]) = c.crcTable (crc8 c a ^^^ b) :=
  crc8_append c a [b]

theorem crcFold_zero_replicate {c : Config} (h : c.crcTable 0 = 0) (n : Nat) :
    crcFold c 0 (List.replicate n 0) = 0 := by
  induction n with
  | zero => rfl
  | succ n ih => exact (congrArg (crcFold c · (List.replicate n 0)) h).trans ih

/-- With a linear table the fold is linear in the running value and the bytes together. -/
theorem crcFold_xor {c : Config} (ht : ∀ x y, c.crcTable (x ^^^ y) = c.crcTable x ^^^ c.crcTable y) {m e : List Byte}
    (hlen : m.length = e.length) (x y : Byte) :
    crcFold c (x ^^^ y) (List.zipWith (fun a b => a ^^^ b) m e) = crcFold c x m ^^^ crcFold c y e := by
  induction m generalizing e x y with
  | nil =>
    obtain rfl := List.length_eq_zero_iff.1 hlen.symm
    rfl
  | cons a m ih =>
    cases e with
    | nil => cases hlen
    | cons b e =>
      have hregroup : x ^^^ y ^^^ (a ^^^ b) = (x ^^^ a) ^^^ (y ^^^ b) := by ac_rfl
      rw [List.zipWith_cons_cons, crcFold_cons, crcFold_cons, crcFold_cons, hregroup, ht]
      exact ih (Nat.succ.inj hlen) _ _

/-- R93 (g): only one byte of the sequence is not 0. With an injective table that sends 0 to 0, the zeros before it
leave the running value 0, and the zeros after it keep apart what its entry and 0 lead to. -/
theorem crcFold_zero_of_nonzero_byte {c : Config} (hinj : ∀ x y, c.crcTable x = c.crcTable y → x = y)
    (hzero : c.crcTable 0 = 0) {b : Byte} (hb : b ≠ 0) (i j : Nat) :
    crcFold c 0 (List.replicate i 0 ++ b :: List.replicate j 0) ≠ 0 := by
  have hstart : 0 ^^^ b = b := BitVec.zero_xor
  rw [crcFold_append, crcFold_zero_replicate hzero, crcFold_cons, hstart]
  intro h
  have hentry : c.crcTable b = 0 := crcFold_injective c hinj _ (h.trans (crcFold_zero_replicate hzero j).symm)
  exact hb (hinj b 0 (hentry.trans hzero.symm))

theorem one_shiftLeft_ne_zero : ∀ k < 8, (1#8 <<< k) ≠ 0 := by
  decide

end Sys2Proof.Machine

open Sys2Proof Sys2Proof.Machine

/-- Settles O13, from the fold over a concatenation. -/
theorem crc8FoldLaws : Obligations.Crc8FoldLaws :=
  fun c => ⟨rfl, crc8_append_singleton c, crc8_append c⟩

/-- Settles O14, from the entry of 0 and the injectivity of the table. -/
theorem crc8DefaultZeroAndBijectionLaws : Obligations.Crc8DefaultZeroAndBijectionLaws := by
  refine ⟨crcFold_zero_replicate t07_zero, fun a => ?leadingZero, t07_injective, fun a x y hxy h => ?lastByte,
    fun a => ?ownChecksum⟩
  case leadingZero => rfl
  case lastByte =>
    rw [crc8_append_singleton, crc8_append_singleton] at h
    exact hxy ((BitVec.xor_right_inj _).1 (t07_injective _ _ h))
  case ownChecksum =>
    rw [crc8_append_singleton, BitVec.xor_self]
    exact t07_zero

/-- Settles O15: the fold is linear with the table, and the one byte with a 1 bit is not 0. -/
theorem crc8DefaultLinearityLaws : Obligations.Crc8DefaultLinearityLaws :=
  ⟨t07_xor, fun _ _ hlen => crcFold_xor t07_xor hlen 0 0,
    fun i j k hk => crcFold_zero_of_nonzero_byte t07_injective t07_zero (one_shiftLeft_ne_zero k hk) i j⟩

/-- Settles O30: the frame is what `ENCODE` writes, its length does not wrap, and reads of written bytes
do not count. -/
theorem encodeBuildsTheFrame : Obligations.EncodeBuildsTheFrame := by
  refine fun s => ⟨encodeOp config s, rfl, length_encodePacket_packet config s, encodeOp_flen_toNat config s, rfl,
    Memory.holdsOver_writes _ _, encodeOp_eq config s, fun ⟨hdata, hopt⟩ => ?_⟩
  rw [ValidRun, encodeOp_unwrittenReads, hdata, hopt]
  rfl

/-- Settles O16: two register writes and a register read. -/
theorem crcRegisterCommandsComplete : Obligations.CrcRegisterCommandsComplete :=
  fun s => ⟨rfl, fun _ => rfl, congrArg Host.Outcome.next (readReg_eq_ofNat s.crc s)⟩

/-- Settles O17, at the default configuration. -/
theorem crcUpdfbFoldsTheBufferByte : Obligations.CrcUpdfbFoldsTheBufferByte := by
  intro s a b ha hb
  rw [exec_eq_execFor]
  exact execFor_crcUpdfb_of_written config ha hb
end

section
/-!
PROOFS. The `ENCODE` statements (spec/41_encode.md). First the Packet a frame stands for, which makes `encode`
injective; then what `ENCODE` leaves in the block when the bytes of the Packet are written, alone and with a `DECODE`
after it; then the four statements.
-/

namespace Sys2Proof.Machine

/-! ### The Packet a frame stands for -/

/-- The Packet at the offsets of the layout R60, no check made: what `decodeChunk` answers when its checks
pass (R131). -/
def packetOfFrame (b : List Byte) : Packet :=
  ⟨byteAt b 4, slice b 6 (6 + chunkDlen b), slice b (6 + chunkDlen b) (bodyEnd b)⟩

theorem packetOfFrame_encodePacket (c : Config) {p : Packet} (hp : p.Bounded) :
    packetOfFrame (encodePacket c p) = p := by
  obtain ⟨hd, ho⟩ := chunkLens_encodePacket c hp
  obtain ⟨-, htype, -⟩ := byteAt_encodePacket_header c p
  rw [packetOfFrame, bodyEnd, hd, ho, htype, slice_encodePacket_data, slice_encodePacket_opt]

theorem encodePacket_injective (c : Config) {p q : Packet} (hp : p.Bounded) (hq : q.Bounded)
    (h : encodePacket c p = encodePacket c q) : p = q := by
  rw [← packetOfFrame_encodePacket c hp, h, packetOfFrame_encodePacket c hq]

/-- The frame of the empty Packet has 7 bytes, one too few for `decode` (R137, R217). -/
theorem decodeChunk_encodePacket_empty (c : Config) {p : Packet} (hempty : p.data.length + p.opt.length = 0) :
    decodeChunk c (encodePacket c p) = .err .framingError :=
  if_pos (by rw [length_encodePacket, minChunk]; omega)

/-! ### A chunk and a Packet that stand in the block -/

/-- A chunk that was put into the frame buffer is the chunk the block holds, all of it written. -/
theorem chunk_of_chunkLoaded {bs : List Byte} {s t : State} (h : ChunkLoaded bs s t) :
    t.chunk = bs ∧ t.ChunkWritten := by
  obtain ⟨hlen, hfb⟩ := h
  have hread : ∀ i < bs.length, (t.buf .fb).read? i = bs[i]? := fun i hi => (hfb i).trans (if_pos hi)
  exact ⟨by rw [State.chunk, hlen, State.memReads_of_holds hread], State.written_of_holds hlen.le hread⟩

/-- Writing bytes over themselves changes no byte. -/
theorem Memory.read?_writes_of_holds {m : Memory} {bs : List Byte} (h : ∀ i < bs.length, m.read? i = bs[i]?)
    (a : Nat) : (m.writes 0 bs).read? a = m.read? a := by
  rw [Memory.read?_writes_zero]
  split
  next ha => exact (h a ha).symm
  next => rfl

/-- A written range holds the bytes that are read from it. -/
theorem State.read?_eq_memReads {s : State} {S : Space} {n : Nat} (h : s.written S 0 n = true) :
    ∀ i < (s.memReads S 0 n).length, (s.buf S).read? i = (s.memReads S 0 n)[i]? := by
  intro i hi
  rw [State.length_memReads] at hi
  rw [State.getElem?_memReads s S 0 n i hi, Nat.zero_add, State.read?_of_written h hi]

/-- The length registers hold the lengths of the Packet (R34). -/
theorem ofNat_length_packet (s : State) :
    BitVec.ofNat 16 s.packet.data.length = s.dlen ∧ BitVec.ofNat 8 s.packet.opt.length = s.olen := by
  simp [State.packet]

/-! ### `ENCODE`, alone and with a `DECODE` after it -/

/-- The frame is the chunk that stands in the block after `ENCODE`, whether the Packet was written or not (R113). -/
theorem chunkLoaded_encodeOp (c : Config) (s : State) :
    ChunkLoaded (encodePacket c s.packet) s (encodeOp c s) :=
  ⟨(encodeOp_flen_toNat c s).trans (length_encodePacket_packet c s).symm, Memory.holdsOver_writes _ _⟩

/-- `ENCODE` of written bytes counts no read of a never-written byte. -/
theorem encodeOp_of_packetWritten (c : Config) {s : State} (h : s.PacketWritten) :
    encodeOp c s = { s with
      fb := s.fb.writes 0 (encodePacket c s.packet), flen := BitVec.ofNat 17 s.frameLen, status := 0 } := by
  obtain ⟨hdata, hopt⟩ := h
  rw [encodeOp_eq, encodeOp_unwrittenReads, hdata, hopt]
  rfl

/-- The frame of the Packet stands in the frame buffer, and `FLEN` and `STATUS` are what `ENCODE` makes them. -/
def State.Encoded (c : Config) (t : State) : Prop :=
  (∀ i < (encodePacket c t.packet).length, t.fb.read? i = (encodePacket c t.packet)[i]?) ∧
    t.flen = BitVec.ofNat 17 t.frameLen ∧ t.status = 0

theorem packetWritten_encodeOp (c : Config) {s : State} (h : s.PacketWritten) : (encodeOp c s).PacketWritten := by
  rw [encodeOp_of_packetWritten c h]
  exact h

theorem encoded_encodeOp (c : Config) {s : State} (h : s.PacketWritten) : (encodeOp c s).Encoded c := by
  obtain ⟨-, hfb⟩ := chunkLoaded_encodeOp c s
  refine ⟨fun i hi => ?frame, ?flen, encodeOp_status c s⟩
  case frame =>
    rw [packet_encodeOp c s h] at hi ⊢
    exact (hfb i).trans (if_pos hi)
  case flen => rw [encodeOp_of_packetWritten c h]; rfl

/-- An `ENCODE` whose result stands there already writes the frame over itself (R114 g). -/
theorem encodeOp_of_encoded (c : Config) {t : State} (hw : t.PacketWritten) (ht : t.Encoded c) :
    (∀ a, (encodeOp c t).fb.read? a = t.fb.read? a) ∧ encodeOp c t = { t with fb := (encodeOp c t).fb } := by
  obtain ⟨hfb, hflen, hstatus⟩ := ht
  refine ⟨Memory.read?_writes_of_holds hfb, ?others⟩
  case others => rw [encodeOp_of_packetWritten c hw, ← hflen, ← hstatus]

/-- `DECODE` after `ENCODE` writes a Packet with at least one byte back to where it was read (R137). -/
theorem decodeOp_encodeOp (c : Config) {s : State} (h : s.PacketWritten) (hbyte : 1 ≤ s.dlen.toNat + s.olen.toNat) :
    decodeOp c (encodeOp c s) = { s with
      data := s.data.writes 0 s.packet.data, opt := s.opt.writes 0 s.packet.opt,
      fb := s.fb.writes 0 (encodePacket c s.packet), flen := BitVec.ofNat 17 s.frameLen, status := 0 } := by
  obtain ⟨hchunk, hwritten⟩ := chunk_of_chunkLoaded (chunkLoaded_encodeOp c s)
  have hbytes : 1 ≤ s.packet.data.length + s.packet.opt.length := by simpa [State.packet] using hbyte
  have hdec : decodeChunk c (encodeOp c s).chunk = .ok s.packet := by
    rw [hchunk, decodeChunk_encodePacket c (packet_bounded s) hbytes]
  obtain ⟨hdlen, holen⟩ := ofNat_length_packet s
  rw [decodeOp_of_ok hdec, decodeOp_unwrittenReads_of_written c hwritten, encodeOp_of_packetWritten c h, hdlen, holen]
  rfl

/-- `DECODE` after `ENCODE` of the empty Packet raises `FramingError`, and nothing else changes (R137, R217). -/
theorem decodeOp_encodeOp_of_empty (c : Config) {s : State} (hempty : s.packet.data.length + s.packet.opt.length = 0) :
    decodeOp c (encodeOp c s) = { encodeOp c s with status := 1 } := by
  obtain ⟨hchunk, hwritten⟩ := chunk_of_chunkLoaded (chunkLoaded_encodeOp c s)
  have hdec : decodeChunk c (encodeOp c s).chunk = .err .framingError := by
    rw [hchunk, decodeChunk_encodePacket_empty c hempty]
  rw [decodeOp_of_err hdec, decodeOp_unwrittenReads_of_written c hwritten]
  rfl

end Sys2Proof.Machine

open Sys2Proof Sys2Proof.Machine

/-- Settles O21: the layout gives the length and the first bytes, and a frame gives its Packet back. -/
theorem encodeLengthAndInjectivity : Obligations.EncodeLengthAndInjectivity := by
  intro c p hp
  have hlen := length_encodePacket c p
  obtain ⟨hdlen, holen⟩ := chunkLens_encodePacket c hp
  obtain ⟨hsync, -, -⟩ := byteAt_encodePacket_header c p
  exact ⟨hlen, by omega, length_encodePacket_le c hp, hsync, hdlen, holen,
    fun _ hq => encodePacket_injective c hp hq⟩

/-- Settles O31: after the first `ENCODE` the frame, `FLEN` and `STATUS` stand there already. -/
theorem encodeTwiceIsEncodeOnce : Obligations.EncodeTwiceIsEncodeOnce := by
  intro s t hw hexec
  have ht : encodeOp config s = t := Host.Outcome.next.inj hexec
  have hwritten : t.PacketWritten := ht ▸ packetWritten_encodeOp config hw
  have hencoded : t.Encoded config := ht ▸ encoded_encodeOp config hw
  exact ⟨encodeOp config t, rfl, encodeOp_of_encoded config hwritten hencoded⟩

/-- Settles O35: the frame is the chunk `DECODE` takes, and the Packet goes back to where it was read. -/
theorem encodeThenDecodeRestoresThePacket : Obligations.EncodeThenDecodeRestoresThePacket := by
  intro s hbyte hw
  have hboth := decodeOp_encodeOp config hw hbyte
  refine ⟨_, congrArg Host.Outcome.next hboth, rfl, fun S a hS => ?buffers, Memory.holdsOver_writes _ _,
    encodeOp_flen_toNat config s, rfl⟩
  case buffers =>
    obtain ⟨hdata, hopt⟩ := hw
    cases S with
    | data => exact Memory.read?_writes_of_holds (State.read?_eq_memReads hdata) a
    | opt => exact Memory.read?_writes_of_holds (State.read?_eq_memReads hopt) a
    | fb => exact absurd rfl hS

/-- Settles O36: the frame of the empty Packet is the chunk, and it is too short. -/
theorem emptyPacketDoesNotSurviveTheRoundTrip : Obligations.EmptyPacketDoesNotSurviveTheRoundTrip := by
  intro s hd ho
  have hlens : s.packet.data.length + s.packet.opt.length = 0 := by simp [State.packet, hd, ho]
  have hflen : (encodeOp config s).flen.toNat = 7 := by rw [encodeOp_flen_toNat, hd, ho]; rfl
  exact ⟨encodeOp config s, rfl, BitVec.eq_of_toNat_eq hflen,
    congrArg Host.Outcome.next (decodeOp_encodeOp_of_empty config hlens)⟩
end

section
/-!
PROOFS. The `decode` statements (spec/42_decode.md). First the checks that lead to each answer of `decode`, said once as
an equivalence; then which bytes an answer depends on, and what another byte in the frame of a chunk that decodes does
to it; then what `DECODE` leaves in `STATUS`; then the ten statements.
-/

namespace Sys2Proof.Machine

/-! ### The answer of `decode` -/

/-- Checks 1 to 3 of R125 pass. -/
def HeaderPasses (c : Config) (b : List Byte) : Prop :=
  8 ≤ b.length ∧ byteAt b 0 = sync ∧ crc8 c (slice b 1 5) = byteAt b 5

/-- What the checks of R125 find in a chunk that has the given answer (R126 to R131). -/
def ChecksAnswer (c : Config) (b : List Byte) : DecodeResult → Prop
  | .err .framingError => b.length < 8
  | .err .syncError => 8 ≤ b.length ∧ byteAt b 0 ≠ sync
  | .err .headerChecksumError => 8 ≤ b.length ∧ byteAt b 0 = sync ∧ crc8 c (slice b 1 5) ≠ byteAt b 5
  | .err .lengthError => HeaderPasses c b ∧ b.length < 7 + chunkDlen b + chunkOlen b
  | .err .bodyChecksumError => HeaderPasses c b ∧ 7 + chunkDlen b + chunkOlen b ≤ b.length ∧
      crc8 c (slice b 6 (bodyEnd b)) ≠ byteAt b (bodyEnd b)
  | .ok p => HeaderPasses c b ∧ 7 + chunkDlen b + chunkOlen b ≤ b.length ∧
      crc8 c (slice b 6 (bodyEnd b)) = byteAt b (bodyEnd b) ∧ packetOfFrame b = p

theorem checksAnswer_decodeChunk (c : Config) (b : List Byte) : ChecksAnswer c b (decodeChunk c b) := by
  rcases decodeChunk_cases c b with ⟨h8, e⟩ | ⟨h8, h0, e⟩ | ⟨h8, h0, h5, e⟩ | ⟨h8, h0, h5, hl, e⟩ |
    ⟨h8, h0, h5, hl, hb, e⟩ | ⟨h8, h0, h5, hl, hb, e⟩ <;> rw [e]
  · exact h8
  · exact ⟨h8, h0⟩
  · exact ⟨h8, h0, h5⟩
  · exact ⟨⟨h8, h0, h5⟩, hl⟩
  · exact ⟨⟨h8, h0, h5⟩, hl, hb⟩
  · exact ⟨⟨h8, h0, h5⟩, hl, hb, rfl⟩

theorem not_lt_minChunk {b : List Byte} (h : 8 ≤ b.length) : ¬ b.length < minChunk := Nat.not_lt.2 h

/-- Once the header passes, only the length and the body checksum are left to check. -/
theorem decodeChunk_of_headerPasses {c : Config} {b : List Byte} (h : HeaderPasses c b) :
    decodeChunk c b = if b.length < 7 + chunkDlen b + chunkOlen b then .err .lengthError
      else if crc8 c (slice b 6 (bodyEnd b)) ≠ byteAt b (bodyEnd b) then .err .bodyChecksumError
      else .ok (packetOfFrame b) := by
  obtain ⟨h8, h0, h5⟩ := h
  rw [decodeChunk, if_neg (not_lt_minChunk h8), if_neg (not_not.2 h0), if_neg (not_not.2 h5)]
  rfl

theorem decodeChunk_of_checksAnswer {c : Config} {b : List Byte} :
    ∀ {r : DecodeResult}, ChecksAnswer c b r → decodeChunk c b = r
  | .err .framingError, h => if_pos h
  | .err .syncError, ⟨h8, h0⟩ => by rw [decodeChunk, if_neg (not_lt_minChunk h8), if_pos h0]
  | .err .headerChecksumError, ⟨h8, h0, h5⟩ => by
    rw [decodeChunk, if_neg (not_lt_minChunk h8), if_neg (not_not.2 h0), if_pos h5]
  | .err .lengthError, ⟨hhead, hlen⟩ => by rw [decodeChunk_of_headerPasses hhead, if_pos hlen]
  | .err .bodyChecksumError, ⟨hhead, hlen, hbody⟩ => by
    rw [decodeChunk_of_headerPasses hhead, if_neg (Nat.not_lt.2 hlen), if_pos hbody]
  | .ok _, ⟨hhead, hlen, hbody, hp⟩ => by
    rw [decodeChunk_of_headerPasses hhead, if_neg (Nat.not_lt.2 hlen), if_neg (not_not.2 hbody), hp]

theorem decodeChunk_eq_iff {c : Config} {b : List Byte} {r : DecodeResult} :
    decodeChunk c b = r ↔ ChecksAnswer c b r :=
  ⟨fun h => h ▸ checksAnswer_decodeChunk c b, decodeChunk_of_checksAnswer⟩

/-- The four bytes the header checksum covers (R128). -/
theorem slice_header {b : List Byte} (h : 8 ≤ b.length) :
    slice b 1 5 = [byteAt b 1, byteAt b 2, byteAt b 3, byteAt b 4] := by
  match b, h with
  | _ :: _ :: _ :: _ :: _ :: _, _ => exact slice_one_five

/-- Checks 1 to 3, with the checksummed bytes spelt out. -/
theorem headerPasses_iff {c : Config} {b : List Byte} : HeaderPasses c b ↔ 8 ≤ b.length ∧ byteAt b 0 = 0x55 ∧
    crc8 c [byteAt b 1, byteAt b 2, byteAt b 3, byteAt b 4] = byteAt b 5 :=
  and_congr_right fun h => by rw [slice_header h]; rfl

/-! ### What the answer depends on -/

theorem take_congr {b b' : List Byte} {m n : Nat} (h : b'.take n = b.take n) (hm : m ≤ n) : b'.take m = b.take m := by
  rw [← Nat.min_eq_left hm, ← List.take_take, h, List.take_take]

theorem byteAt_congr {b b' : List Byte} {i n : Nat} (h : b'.take n = b.take n) (hi : i < n) :
    byteAt b' i = byteAt b i := by
  rw [← byteAt_take hi, h, byteAt_take hi]

theorem slice_congr {b b' : List Byte} {i j n : Nat} (h : b'.take n = b.take n) (hj : j ≤ n) :
    slice b' i j = slice b i j := by
  rw [← slice_take hj, h, slice_take hj]

theorem HeaderPasses.congr {c : Config} {b b' : List Byte} (hp : HeaderPasses c b) (hlen : b.length ≤ b'.length)
    (h : b'.take 6 = b.take 6) : HeaderPasses c b' := by
  obtain ⟨h8, h0, h5⟩ := hp
  refine ⟨h8.trans hlen, ?_, ?_⟩
  · rw [byteAt_congr h (by decide), h0]
  · rw [slice_congr h (by decide), byteAt_congr h (by decide), h5]

/-- The body checksum stands at the last offset of the bytes a whole frame takes (R60). -/
theorem bodyEnd_succ (b : List Byte) : bodyEnd b + 1 = 7 + chunkDlen b + chunkOlen b := by
  rw [bodyEnd]
  omega

theorem six_le_bodyEnd_succ (b : List Byte) : 6 ≤ bodyEnd b + 1 := by
  rw [bodyEnd]
  omega

/-- Chunks that agree up to the body checksum of one have the same frame. -/
theorem frame_congr {b b' : List Byte} (h : b'.take (bodyEnd b + 1) = b.take (bodyEnd b + 1)) :
    chunkDlen b' = chunkDlen b ∧ chunkOlen b' = chunkOlen b ∧ bodyEnd b' = bodyEnd b ∧
      packetOfFrame b' = packetOfFrame b := by
  obtain ⟨hdl, hol⟩ := chunkLens_congr (take_congr h (six_le_bodyEnd_succ b))
  have hend : bodyEnd b' = bodyEnd b := by rw [bodyEnd, hdl, hol, bodyEnd]
  have hdata : 6 + chunkDlen b ≤ bodyEnd b + 1 := by rw [bodyEnd]; omega
  refine ⟨hdl, hol, hend, ?_⟩
  have htype : 4 < bodyEnd b + 1 := Nat.lt_of_lt_of_le (by decide) (six_le_bodyEnd_succ b)
  rw [packetOfFrame, hend, hdl, byteAt_congr h htype, slice_congr h hdata, slice_congr h (Nat.le_succ _), packetOfFrame]

/-- The answer for a whole frame with a correct header depends on the frame alone. -/
theorem decodeChunk_congr_of_frame {c : Config} {b b' : List Byte} (hhead : HeaderPasses c b)
    (hl : 7 + chunkDlen b + chunkOlen b ≤ b.length) (hlen : b.length ≤ b'.length)
    (hread : b'.take (bodyEnd b + 1) = b.take (bodyEnd b + 1)) : decodeChunk c b' = decodeChunk c b := by
  obtain ⟨hdl, hol, hend, hframe⟩ := frame_congr hread
  have hhead' : HeaderPasses c b' := hhead.congr hlen (take_congr hread (six_le_bodyEnd_succ b))
  rw [decodeChunk_of_headerPasses hhead, decodeChunk_of_headerPasses hhead', hdl, hol, hend, hframe,
    if_neg (Nat.not_lt.2 hl), if_neg (Nat.not_lt.2 (hl.trans hlen)), slice_congr hread (Nat.le_succ _),
    byteAt_congr hread (Nat.lt_succ_self _)]

/-- R132, R133: a chunk at least as long, with the same bytes where `decode` reads, has the same answer, unless the
answer says that the chunk is short. -/
theorem decodeChunk_congr {c : Config} {b b' : List Byte} (hlen : b.length ≤ b'.length)
    (hshort : decodeChunk c b = .err .framingError ∨ decodeChunk c b = .err .lengthError → b'.length = b.length)
    (hread : b'.take (decodeReach c b) = b.take (decodeReach c b)) : decodeChunk c b' = decodeChunk c b := by
  have hans := checksAnswer_decodeChunk c b
  rw [decodeReach, ← bodyEnd_succ] at hread
  cases hr : decodeChunk c b with
  | err e =>
    rw [hr] at hans hread hshort
    cases e with
    | framingError => exact decodeChunk_of_checksAnswer ((hshort (.inl rfl)).trans_lt hans)
    | syncError =>
      obtain ⟨h8, h0⟩ := hans
      have h1 : b'.take 1 = b.take 1 := hread
      exact decodeChunk_of_checksAnswer ⟨h8.trans hlen, by rwa [byteAt_congr h1 (by decide)]⟩
    | headerChecksumError =>
      obtain ⟨h8, h0, h5⟩ := hans
      have h6 : b'.take 6 = b.take 6 := hread
      refine decodeChunk_of_checksAnswer ⟨h8.trans hlen, ?_, ?_⟩
      · rwa [byteAt_congr h6 (by decide)]
      · rwa [slice_congr h6 (by decide), byteAt_congr h6 (by decide)]
    | lengthError =>
      obtain ⟨hhead, hl⟩ := hans
      obtain ⟨hdl, hol⟩ := chunkLens_congr hread
      exact decodeChunk_of_checksAnswer ⟨hhead.congr hlen hread, by rwa [hdl, hol, hshort (.inr rfl)]⟩
    | bodyChecksumError =>
      obtain ⟨hhead, hl, -⟩ := hans
      exact (decodeChunk_congr_of_frame hhead hl hlen hread).trans hr
  | ok p =>
    rw [hr] at hans hread
    obtain ⟨hhead, hl, -⟩ := hans
    exact (decodeChunk_congr_of_frame hhead hl hlen hread).trans hr

/-- Bytes appended to a chunk that is not too short change nothing (R132). -/
theorem decodeChunk_append {c : Config} {f : List Byte} (hframing : decodeChunk c f ≠ .err .framingError)
    (hlength : decodeChunk c f ≠ .err .lengthError) (x : List Byte) : decodeChunk c (f ++ x) = decodeChunk c f :=
  decodeChunk_congr (List.length_append ▸ Nat.le_add_right _ _) (fun h => (h.elim hframing hlength).elim)
    (List.take_append_of_le_length (decodeReach_le c f))

/-- R137: a frame decodes to its Packet, whatever follows it, as soon as the chunk has the 8 bytes of check 1. -/
theorem decodeChunk_encodePacket_append (c : Config) {p : Packet} (hp : p.Bounded) {x : List Byte}
    (h8 : 8 ≤ (encodePacket c p ++ x).length) : decodeChunk c (encodePacket c p ++ x) = .ok p := by
  obtain ⟨hdl, hol⟩ := chunkLens_encodePacket c hp
  obtain ⟨hsync, -, hhead⟩ := byteAt_encodePacket_header c p
  have hend : bodyEnd (encodePacket c p) = 6 + p.data.length + p.opt.length := by rw [bodyEnd, hdl, hol]
  have hlen : bodyEnd (encodePacket c p) + 1 = (encodePacket c p).length := by rw [hend, length_encodePacket]; omega
  have hread := List.take_append_of_le_length (l₂ := x) hlen.le
  obtain ⟨hdl', hol', hend', hframe⟩ := frame_congr hread
  refine decodeChunk_of_checksAnswer ⟨⟨h8, ?sync, ?header⟩, ?length, ?body, ?packet⟩
  case sync => rw [byteAt_congr hread (by omega), hsync]
  case header =>
    rw [slice_congr hread (by omega), byteAt_congr hread (by omega), slice_encodePacket_header, hhead]
  case length => rw [hdl', hol', ← bodyEnd_succ, hlen, List.length_append]; omega
  case body =>
    rw [hend', slice_congr hread (Nat.le_succ _), byteAt_congr hread (Nat.lt_succ_self _), hend,
      slice_encodePacket_regions, byteAt_encodePacket_bodyChecksum]
  case packet => rw [hframe, packetOfFrame_encodePacket c hp]

/-- A header can announce no more than the longest frame (R129). -/
theorem chunkLens_le (b : List Byte) : 7 + chunkDlen b + chunkOlen b ≤ 65797 := by
  have hdl : chunkDlen b ≤ 65535 := unbe16_lt _ _
  have hol : chunkOlen b < 256 := (byteAt b 3).isLt
  omega

/-! ### One changed byte -/

theorem byteAt_set_self {b : List Byte} {m : Nat} (h : m < b.length) (v : Byte) : byteAt (b.set m v) m = v := by
  rw [byteAt, List.getD_eq_getElem?_getD, List.getElem?_set_self h, Option.getD_some]

theorem byteAt_set_ne {b : List Byte} {m i : Nat} (h : m ≠ i) (v : Byte) : byteAt (b.set m v) i = byteAt b i := by
  rw [byteAt, List.getD_eq_getElem?_getD, List.getElem?_set_ne h, ← List.getD_eq_getElem?_getD, byteAt]

theorem slice_set {b : List Byte} {i m : Nat} (h : i ≤ m) (j : Nat) (v : Byte) :
    slice (b.set m v) i j = (slice b i j).set (m - i) v := by
  rw [slice, List.drop_set, if_neg (Nat.not_lt.2 h), List.take_set, slice]

theorem byteAt_slice {b : List Byte} {i j k : Nat} (h : k < j - i) : byteAt (slice b i j) k = byteAt b (i + k) := by
  rw [slice, byteAt_take h, byteAt, byteAt, List.getD_eq_getElem?_getD, List.getElem?_drop, List.getD_eq_getElem?_getD]

/-- With an injective table another byte in one place gives another fold. -/
theorem crcFold_set_ne {c : Config} (hinj : ∀ x y, c.crcTable x = c.crcTable y → x = y) {bs : List Byte} {m : Nat}
    {v : Byte} (hm : m < bs.length) (hv : v ≠ byteAt bs m) (acc : Byte) :
    crcFold c acc (bs.set m v) ≠ crcFold c acc bs := by
  induction bs generalizing m acc with
  | nil => cases hm
  | cons b bs ih =>
    cases m with
    | zero => exact fun h => hv ((BitVec.xor_right_inj _).1 (hinj _ _ (crcFold_injective c hinj bs h)))
    | succ m => exact ih (Nat.lt_of_succ_lt_succ hm) hv _

/-- A checksum that covers offsets `i` to `j - 1` and stands at `j` fails when one of these bytes changes. -/
theorem checksum_set_ne {c : Config} (hinj : ∀ x y, c.crcTable x = c.crcTable y → x = y) {b : List Byte} {i j m : Nat}
    {v : Byte} (hj : j < b.length) (him : i ≤ m) (hmj : m ≤ j) (hv : v ≠ byteAt b m)
    (h : crc8 c (slice b i j) = byteAt b j) : crc8 c (slice (b.set m v) i j) ≠ byteAt (b.set m v) j := by
  rcases hmj.eq_or_lt with rfl | hlt
  · rw [slice_congr (List.take_set_of_le le_rfl) le_rfl, h, byteAt_set_self hj]
    exact hv.symm
  · have hbyte : byteAt (slice b i j) (m - i) = byteAt b m := by
      rw [byteAt_slice (by omega), Nat.add_sub_cancel' him]
    have hlen : m - i < (slice b i j).length := by rw [length_slice hj.le]; omega
    rw [byteAt_set_ne hlt.ne, ← h, slice_set him]
    exact crcFold_set_ne hinj hlen (hbyte ▸ hv) _

/-- R138 for one byte: with an injective table, another byte anywhere in the frame of a chunk that decodes is found
by the check that reads it first. -/
theorem decodeChunk_set_of_ok {c : Config} (hinj : ∀ x y, c.crcTable x = c.crcTable y → x = y) {b : List Byte}
    {p : Packet} (hok : decodeChunk c b = .ok p) {m : Nat} (hm : m ≤ bodyEnd b) {v : Byte} (hv : v ≠ byteAt b m) :
    decodeChunk c (b.set m v) =
      .err (if m = 0 then .syncError else if m ≤ 5 then .headerChecksumError else .bodyChecksumError) := by
  obtain ⟨hhead, hlen, hbody, -⟩ := decodeChunk_eq_iff.1 hok
  obtain ⟨h8, h0, h5⟩ := hhead
  have hset : (b.set m v).length = b.length := List.length_set
  split_ifs with hm0 hm5
  · subst hm0
    refine decodeChunk_of_checksAnswer ⟨hset ▸ h8, ?_⟩
    rw [byteAt_set_self (by omega), ← h0]
    exact hv
  · refine decodeChunk_of_checksAnswer ⟨hset ▸ h8, ?_, checksum_set_ne hinj (by omega) (by omega) hm5 hv h5⟩
    rw [byteAt_set_ne hm0, h0]
  · have hfirst : (b.set m v).take 6 = b.take 6 := List.take_set_of_le (by omega)
    obtain ⟨hdl, hol⟩ := chunkLens_congr hfirst
    have hend : bodyEnd (b.set m v) = bodyEnd b := by rw [bodyEnd, hdl, hol, bodyEnd]
    refine decodeChunk_of_checksAnswer ⟨HeaderPasses.congr ⟨h8, h0, h5⟩ hset.ge hfirst, ?_, ?_⟩
    · rwa [hset, hdl, hol]
    · rw [hend]
      exact checksum_set_ne hinj (bodyEnd_le hlen) (by omega) hm hv hbody

theorem flipBit_ne (x : Byte) {k : Nat} (hk : k < 8) : x ^^^ (1#8 <<< k) ≠ x :=
  fun h => one_shiftLeft_ne_zero k hk ((BitVec.xor_right_inj _).1 (h.trans BitVec.xor_zero.symm))

/-! ### `STATUS` after `DECODE` -/

/-- The code `DECODE` leaves in `STATUS` (R134, R181). -/
def DecodeResult.status : DecodeResult → Byte
  | .ok _ => 0
  | .err .framingError => 1
  | .err .syncError => 2
  | .err .headerChecksumError => 3
  | .err .lengthError => 4
  | .err .bodyChecksumError => 5

theorem decodeOp_status (c : Config) (s : State) : (decodeOp c s).status = (decodeChunk c s.chunk).status := by
  cases h : decodeChunk c s.chunk with
  | ok p => rw [decodeOp_of_ok h]; rfl
  | err e => rw [decodeOp_of_err h]; cases e <;> rfl

theorem DecodeResult.status_eq_zero_iff (r : DecodeResult) : r.status = 0 ↔ ∃ p, r = .ok p := by
  cases r with
  | ok p => exact ⟨fun _ => ⟨p, rfl⟩, fun _ => rfl⟩
  | err e => cases e <;> exact ⟨fun h => absurd h (by decide), fun ⟨_, h⟩ => by cases h⟩

/-- The five errors have five codes. -/
theorem DecodeResult.err_status_inj : ∀ e e' : DecodeError, (err e).status = (err e').status → e = e' := by
  rintro ⟨⟩ ⟨⟩ <;> decide

theorem DecodeResult.status_eq_iff (r : DecodeResult) (e : DecodeError) : r.status = (err e).status ↔ r = .err e := by
  refine ⟨fun h => ?_, congrArg DecodeResult.status⟩
  cases r with
  | ok p =>
    obtain ⟨_, hq⟩ := (DecodeResult.status_eq_zero_iff (.err e)).1 h.symm
    cases hq
  | err e' => exact congrArg DecodeResult.err (err_status_inj e' e h)

end Sys2Proof.Machine

open Sys2Proof Sys2Proof.Machine

/-- Settles O28: without a body the frame is one byte short, and any byte that follows makes it long enough. -/
theorem roundTripOfPackets : Obligations.RoundTripOfPackets := by
  refine fun c p hp => ⟨decodeChunk_encodePacket c hp, decodeChunk_encodePacket_empty c, fun x hx => ?surplus⟩
  case surplus =>
    have hbyte := List.length_pos_iff.2 hx
    exact decodeChunk_encodePacket_append c hp (by rw [List.length_append, length_encodePacket]; omega)

/-- Settles O23, check by check. -/
theorem decodeFailuresExactlyWhen : Obligations.DecodeFailuresExactlyWhen := by
  intro c b
  refine ⟨decodeChunk_eq_iff, decodeChunk_eq_iff, ?header, ?length, fun h => ?twoBytes, ?body, fun h => ?emptyBody⟩
  case header => exact decodeChunk_eq_iff.trans (and_congr_right fun h => by rw [slice_header h]; rfl)
  case length => rw [decodeChunk_eq_iff, ChecksAnswer, headerPasses_iff, and_assoc, and_assoc]; rfl
  case twoBytes =>
    obtain ⟨⟨h8, -⟩, hlen⟩ := decodeChunk_eq_iff.1 h
    omega
  case body => rw [decodeChunk_eq_iff, ChecksAnswer, headerPasses_iff, and_assoc, and_assoc]; rfl
  case emptyBody => rw [Nat.add_assoc, h]; rfl

/-- Settles O24: the answer of the five checks, and the lengths of the two slices. -/
theorem decodeSuccessGivesThePacket : Obligations.DecodeSuccessGivesThePacket := by
  intro c b p
  constructor
  · intro h
    obtain ⟨⟨h8, h0, h5⟩, hlen, hbody, rfl⟩ := decodeChunk_eq_iff.1 h
    have hend := bodyEnd_le hlen
    refine ⟨h8, h0, h5, hlen, hbody, rfl, rfl, rfl, ?_, ?_, bounded_of_decodeChunk_ok h⟩
    · exact (length_slice (by omega)).trans (Nat.add_sub_cancel_left ..)
    · exact (length_slice (by omega)).trans (Nat.add_sub_cancel_left ..)
  · obtain ⟨ptype, data, opt⟩ := p
    rintro ⟨h8, h0, h5, hlen, hbody, rfl, rfl, rfl, -⟩
    exact decodeChunk_of_checksAnswer ⟨⟨h8, h0, h5⟩, hlen, hbody, rfl⟩

/-- Settles O25: eight bytes appended to none are no longer short, nor is a frame of two data bytes that gets its last
byte. -/
theorem surplusBytesAreIgnored : Obligations.SurplusBytesAreIgnored := by
  refine ⟨fun _ _ x hf hl => decodeChunk_append hf hl x,
    fun c => ⟨[], List.replicate 8 0, rfl, fun h => Nat.lt_irrefl 8 (decodeChunk_eq_iff.1 h)⟩,
    fun c => ⟨[sync, 0, 2, 0, 0, crc8 c [0, 2, 0, 0], 0, 0], [crc8 c [0, 0]], ?short, fun h => ?whole⟩⟩
  case short => exact decodeChunk_of_checksAnswer ⟨⟨le_rfl, rfl, rfl⟩, (by decide : 8 < 9)⟩
  case whole =>
    have hok := decodeChunk_encodePacket c (p := ⟨0, [0, 0], []⟩) (by decide) (by decide)
    cases hok.symm.trans h

/-- Settles O26: the reach by the answer, and a chunk of the same length that agrees there. -/
theorem decodeReadsOnlyTheStatedBytes : Obligations.DecodeReadsOnlyTheStatedBytes := by
  intro c b
  refine ⟨decodeReach_le c b, fun h => ?_, fun h => ?_, ?_, ?_,
    fun b' hlen hread => decodeChunk_congr hlen.ge (fun _ => hlen) hread⟩
  · rw [decodeReach, h]
  · rw [decodeReach, h]
  · rintro (h | h) <;> rw [decodeReach, h]
  · rintro (h | ⟨p, h⟩) <;> rw [decodeReach, h] <;> exact (bodyEnd_succ b).symm

/-- Settles O27: the first 65797 bytes hold any frame whole, so what follows them is surplus. -/
theorem overlongChunkDecodesAsItsPrefix : Obligations.OverlongChunkDecodesAsItsPrefix := by
  intro c b hlong
  have hlen : (b.take 65797).length = 65797 := List.length_take_of_le hlong.le
  have hframing : decodeChunk c (b.take 65797) ≠ .err .framingError := by
    rw [Ne, decodeChunk_eq_iff, ChecksAnswer, hlen]
    decide
  have hlength : decodeChunk c (b.take 65797) ≠ .err .lengthError := by
    intro h
    obtain ⟨-, hlt⟩ := decodeChunk_eq_iff.1 h
    exact (hlen ▸ hlt).not_ge (chunkLens_le _)
  rw [← decodeChunk_append hframing hlength (b.drop 65797), List.take_append_drop]

/-- Settles O29: the flipped bit changes one byte of a chunk that decodes, and the default table is injective. -/
theorem singleBitCorruptionIsDetected : Obligations.SingleBitCorruptionIsDetected := by
  intro p i k hp h8 hi hk
  obtain ⟨hdl, hol⟩ := chunkLens_encodePacket config hp
  have hend := bodyEnd_succ (encodePacket config p)
  rw [length_encodePacket] at h8 hi
  exact decodeChunk_set_of_ok t07_injective (decodeChunk_encodePacket config hp (by omega)) (by omega) (flipBit_ne _ hk)

/-- Settles O32: the Packet is loaded with code 0, and reads of written bytes do not count. -/
theorem decodeLoadsThePacket : Obligations.DecodeLoadsThePacket := by
  refine fun s p h => ⟨decodeOp config s, rfl, ?status, packetLoaded_decodeOp h, ?others,
    decodeOp_unwrittenReads_of_written config⟩
  case status => rw [decodeOp_status, h]; rfl
  case others => rw [decodeOp_of_ok h]

/-- Settles O33: the error is raised with its code, and reads of written bytes do not count. -/
theorem failedDecodeChangesOnlyStatus : Obligations.FailedDecodeChangesOnlyStatus := by
  refine fun s e h => ⟨decodeOp config s, rfl, ?status, ?others, decodeOp_unwrittenReads_of_written config⟩
  case status => rw [decodeOp_status, h]; cases e <;> rfl
  case others => rw [decodeOp_of_err h]

/-- Settles O34: the code determines the error, and checks 1 and 2 the first two. -/
theorem decodeRaisesExactlyTheFiveErrors : Obligations.DecodeRaisesExactlyTheFiveErrors := by
  intro s t h
  obtain rfl : decodeOp config s = t := Host.Outcome.next.inj h
  rw [decodeOp_status]
  have hcode := (decodeChunk config s.chunk).status_eq_iff
  exact ⟨hcode .framingError, hcode .syncError, hcode .headerChecksumError, hcode .lengthError,
    hcode .bodyChecksumError, DecodeResult.status_eq_zero_iff _, (hcode .framingError).trans decodeChunk_eq_iff,
    (hcode .syncError).trans decodeChunk_eq_iff⟩
end

section
/-!
PROOFS. The access statements (spec/43_access.md) not settled with the state statements above.
-/

open Sys2Proof Sys2Proof.Machine

/-- Settles O38: each of the three is one register write of the model. -/
theorem packetRegisterWritesComplete : Obligations.PacketRegisterWritesComplete :=
  fun _ => ⟨fun _ => rfl, fun _ => rfl, fun _ => rfl⟩
end

section
/-!
PROOFS. The exception statements (spec/60_exceptions.md) not settled with the families above. What an illegal word does,
which operands raise `AddressError`, and that an instruction past its operand check cannot raise it; then the four
statements.
-/

namespace Sys2Proof.Machine

/-- R187: a word that does not decode raises `IllegalCommand`, with the host moved on. -/
theorem step_of_refused_word {s : State} {w : Word} {r : Reject} (he : s.nextEvent? = some (.command w))
    (hr : decodeCommand w = .error r) : step s = .next { s with ip := s.ip + 1, status := 7 } := by
  simp only [step, stepBy, he, runEventBy, hr]
  rfl

/-- The four commands that check a frame-buffer operand, each with an operand out of range (R188). -/
theorem outOfRange_of_not_fbOperandInRange {i : Instr} (h : ¬ FbOperandInRange i) :
    (∃ a v, i = .fbWr a v ∧ 65797 ≤ a.toNat) ∨ (∃ a, i = .fbRd a ∧ 65797 ≤ a.toNat) ∨
    (∃ a, i = .crcUpdfb a ∧ 65797 ≤ a.toNat) ∨ (∃ n, i = .fbSetlen n ∧ 65797 < n.toNat) := by
  cases i with
  | fbWr a v => exact .inl ⟨a, v, rfl, not_lt.1 h⟩
  | fbRd a => exact .inr (.inl ⟨a, rfl, not_lt.1 h⟩)
  | crcUpdfb a => exact .inr (.inr (.inl ⟨a, rfl, not_lt.1 h⟩))
  | fbSetlen n => exact .inr (.inr (.inr ⟨n, rfl, not_le.1 h⟩))
  | _ => exact absurd trivial h

theorem effect_of_fbOperandInRange {i : Instr} (h : FbOperandInRange i) : effect i = inRangeEffect i := by
  cases i with
  | crcUpdfb a => exact funext (withFbAddress_inside h (foldFb config))
  | fbWr a v => exact funext (withFbAddress_inside h fun k => writeByte .fb k v)
  | fbRd a => exact funext (withFbAddress_inside h (readByte .fb))
  | fbSetlen n => exact funext (withFbLength_inside h State.setFlen)
  | _ => rfl

theorem handOverChunk_status_le (c : Config) (bs : List Byte) (s : State) :
    (handOverChunk c bs s).status.toNat ≤ 5 :=
  decodeOp_status_le c (loadChunk bs s)

/-- Past the operand check an instruction leaves `STATUS`, or puts a code of `ENCODE` or `DECODE` there, which is at
most 5 (R181, R191). -/
theorem inRangeEffect_status (i : Instr) (s : State) :
    (inRangeEffect i s).status = s.status ∨ (inRangeEffect i s).status.toNat ≤ 5 := by
  cases i with
  | encode => exact .inr ((congrArg BitVec.toNat (encodeOp_status config s)).trans_le (Nat.zero_le 5))
  | decode => exact .inr (decodeOp_status_le config s)
  | frame | frameRadioErp1 | frameResponse => exact .inr (handOverChunk_status_le config _ s)
  | _ => exact .inl rfl

/-- R180, R191: past the operand check only `DECODE` can leave a new non-zero code, and then nothing else changes but
the model's count. -/
theorem inRangeEffect_precise {i : Instr} {s : State} (hframe : isFrame i = false)
    (hnew : (inRangeEffect i s).status ≠ s.status) (hcode : (inRangeEffect i s).status ≠ 0) :
    inRangeEffect i s = { s with
      status := (inRangeEffect i s).status, unwrittenReads := (inRangeEffect i s).unwrittenReads } := by
  cases i with
  | frame | frameRadioErp1 | frameResponse => cases hframe
  | encode => exact absurd rfl hcode
  | decode =>
    have hdecode : inRangeEffect .decode s = decodeOp config s := rfl
    rw [hdecode] at hcode ⊢
    rcases decodeOp_cases config s with ⟨e, -, h⟩ | ⟨p, -, h⟩
    · rw [h]
    · exact absurd (congrArg State.status h) hcode
  | _ => exact absurd rfl hnew

end Sys2Proof.Machine

open Sys2Proof Sys2Proof.Machine

/-- Settles O47: an operand check raises and does nothing else; past it only `DECODE` raises. -/
theorem exceptionsArePrecise : Obligations.ExceptionsArePrecise := by
  intro i s t hframe h hnew hcode
  obtain rfl := eq_effect_of_exec h
  rcases effect_cases i with e | ⟨-, e⟩ <;> rw [e] at hnew hcode ⊢
  · rfl
  · exact inRangeEffect_precise hframe hnew hcode

/-- Settles O46: out of range the operand check raises; in range no code above 5 is new. -/
theorem addressErrorExactlyWhen : Obligations.AddressErrorExactlyWhen := by
  refine ⟨fun s a v ha => ⟨?fbWr, ?fbRd, ?crcUpdfb⟩, fun s n hn => ?fbSetlen, fun i s t h h6 hold => ?converse⟩
  case fbWr => exact congrArg Host.Outcome.next (withFbAddress_outside ha (fun k => writeByte .fb k v) s)
  case fbRd => exact congrArg Host.Outcome.next (withFbAddress_outside ha (readByte .fb) s)
  case crcUpdfb => exact congrArg Host.Outcome.next (withFbAddress_outside ha (foldFb config) s)
  case fbSetlen => exact congrArg Host.Outcome.next (withFbLength_outside hn State.setFlen s)
  case converse =>
    obtain rfl := eq_effect_of_exec h
    refine outOfRange_of_not_fbOperandInRange fun hin => ?_
    rw [effect_of_fbOperandInRange hin] at h6
    rcases inRangeEffect_status i s with hkept | hle
    · exact hold (hkept.symm.trans h6)
    · exact absurd (h6 ▸ hle) (by decide)

/-- Settles O6: an illegal word does not decode. -/
theorem illegalWordRaisesIllegalCommand : Obligations.IllegalWordRaisesIllegalCommand := by
  intro s w he hw
  obtain ⟨r, hr⟩ := (decodeCommand_error_iff w).2 hw
  exact step_of_refused_word he hr

/-- Settles O52: the next state is the instruction's effect. -/
theorem everyInstructionCompletes : Obligations.EveryInstructionCompletes :=
  fun i s => ⟨effect i s, exec_eq_next i s⟩
end
